-- ==== Sys2Proof/Word.lean ====
section
/-! DEFINITION. The value types of the block: bytes of the buffers, 32-bit registers and port data, 64-bit
operands and results (spec/00_scope.md R7, R10). -/

namespace Sys2Proof

/-- u8 of R10: one byte of a buffer. -/
abbrev Byte := BitVec 8

/-- u32 of R10: a register, a command word, the data of one port access. -/
abbrev Word := BitVec 32

/-- u64 of R10: OPA, RES0, RES1 and the 128-bit engine's words. -/
abbrev DWord := BitVec 64

end Sys2Proof
end

