-- ==== Sys2Proof/Machine/Bytes.lean ====
section
/-! DEFINITION. Byte order: the little-endian value of a byte sequence and the bytes of a value
(spec/00_scope.md R11; spec/20_memory.md R51, R61). -/

namespace Sys2Proof.Machine

/-- The little-endian value of a byte sequence: the sum over j of `byte j << (8*j)` (R11). -/
def leNat : List Byte → Nat
  | [] => 0
  | b :: bs => b.toNat + 256 * leNat bs

/-- The `n` bytes of `v`, least significant first (R11, R51). -/
def leBytes : Nat → Nat → List Byte
  | 0, _ => []
  | n + 1, v => BitVec.ofNat 8 v :: leBytes n (v / 256)

end Sys2Proof.Machine
end

