-- ==== Sys2Proof/Syntax.lean ====
section
/-! DEFINITION. The commands: one constructor for each row of spec/opcode_table.json (spec/30_encoding.md R84). -/

namespace Sys2Proof

/-- A command (R16). Every operand but the rotate amount is an implicit register operand (R83), so only the
rotates carry one: `amt`, the number the command word holds in IMM8 (R82). -/
inductive Instr where
  /-- R100 -/
  | rotl32 (amt : Nat)
  /-- R102 -/
  | rotl64 (amt : Nat)
  /-- R104 -/
  | fmix32
  /-- R106 -/
  | fmix64
  /-- R120 -/
  | hash32
  /-- R140 -/
  | hash128
  /-- R150: OP 0x11 with S = 1 -/
  | hash128s
  /-- R170 -/
  | encode
  /-- R180 -/
  | decode
  deriving DecidableEq, Repr

end Sys2Proof
end

