-- ==== Sys2Proof/WellFormed.lean ====
section
/-! DEFINITION. Which commands can be written as a command word (spec/30_encoding.md R82, R88). -/

namespace Sys2Proof

/-- A rotate amount fits IMM8. R88: an assembler rejects `#n` outside 0..255; amounts from the word width up
to 255 are legal encodings that raise ROT_RANGE when executed (R82). -/
def immFits (amt : Nat) : Bool := decide (amt ≤ 255)

/-- Well-formed commands: the rotate amount is the one operand a word carries, so it is the one check. -/
def Instr.wf : Instr → Bool
  | .rotl32 amt => immFits amt
  | .rotl64 amt => immFits amt
  | .fmix32 => true
  | .fmix64 => true
  | .hash32 => true
  | .hash128 => true
  | .hash128s => true
  | .encode => true
  | .decode => true

end Sys2Proof
end

