-- ==== Sys2Proof/Decode.lean ====
section
/-! DEFINITION. The command decoder, total on all words and all byte sequences, and the encoder
(spec/30_encoding.md R80 to R88). -/

namespace Sys2Proof

/-- Why a command is ILLEGAL (R86 lists the kinds), or is no command at all. -/
inductive Reject where
  /-- Not exactly four bytes: every command is exactly 32 bits (R81). -/
  | length
  /-- A nonzero RSV bit. -/
  | reservedBits
  /-- An OP value outside R84's map. -/
  | unknownOp
  /-- A nonzero IMM8 for an OP other than the rotates. -/
  | immediate
  /-- S = 1 for an OP other than 0x11. -/
  | seedSelect
  deriving DecidableEq, Repr

/-- OP, bits 7:0 (R80). -/
def opField (cmd : Word) : BitVec 8 := cmd.extractLsb' 0 8

/-- IMM8, bits 15:8 (R80). -/
def immField (cmd : Word) : BitVec 8 := cmd.extractLsb' 8 8

/-- S, bit 16 (R80). -/
def seedField (cmd : Word) : BitVec 1 := cmd.extractLsb' 16 1

/-- RSV, bits 31:17 (R80). -/
def rsvField (cmd : Word) : BitVec 15 := cmd.extractLsb' 17 15

/-- `i`, where the S bit must be 0. -/
def needNoSeed (cmd : Word) (i : Instr) : Except Reject Instr :=
  if seedField cmd = 0 then .ok i else .error .seedSelect

/-- The rest of the decoding, where the IMM8 field must be 0. -/
def needNoImm (cmd : Word) (r : Except Reject Instr) : Except Reject Instr :=
  if immField cmd = 0 then r else .error .immediate

/-- The decoder of R85; its `otherwise` and its ILLEGAL results are the rejections by name. -/
def decode (cmd : Word) : Except Reject Instr :=
  if rsvField cmd ≠ 0 then .error .reservedBits
  else match (opField cmd).toNat with
    | 0x01 => needNoSeed cmd (.rotl32 (immField cmd).toNat)
    | 0x02 => needNoSeed cmd (.rotl64 (immField cmd).toNat)
    | 0x03 => needNoImm cmd (needNoSeed cmd .fmix32)
    | 0x04 => needNoImm cmd (needNoSeed cmd .fmix64)
    | 0x10 => needNoImm cmd (needNoSeed cmd .hash32)
    | 0x11 => needNoImm cmd (if seedField cmd = 0 then .ok .hash128 else .ok .hash128s)
    | 0x20 => needNoImm cmd (needNoSeed cmd .encode)
    | 0x21 => needNoImm cmd (needNoSeed cmd .decode)
    | _ => .error .unknownOp

/-- The decoder on bytes: a command is four bytes, little-endian as the port carries them (R51, R81). -/
def decodeBytes (bs : List Byte) : Except Reject Instr :=
  if bs.length = 4 then decode (BitVec.ofNat 32 (Machine.leNat bs)) else .error .length

/-- CMDFMT (R80), written as its pattern string `rrrrrrrrrrrrrrr s iiiiiiii oooooooo` with r = 0. -/
def cmdFormat (s : BitVec 1) (imm op : BitVec 8) : Word := 0#15 ++ s ++ imm ++ op

/-- The command word of R88. -/
def encode : Instr → Word
  | .rotl32 amt => cmdFormat 0 (BitVec.ofNat 8 amt) 0x01
  | .rotl64 amt => cmdFormat 0 (BitVec.ofNat 8 amt) 0x02
  | .fmix32 => cmdFormat 0 0 0x03
  | .fmix64 => cmdFormat 0 0 0x04
  | .hash32 => cmdFormat 0 0 0x10
  | .hash128 => cmdFormat 0 0 0x11
  | .hash128s => cmdFormat 1 0 0x11
  | .encode => cmdFormat 0 0 0x20
  | .decode => cmdFormat 0 0 0x21

/-- The four bytes of a command word as the port stores them (R51). -/
def encodeBytes (i : Instr) : List Byte := Machine.leBytes 4 (encode i).toNat

/-- The host's question of a table row: what the decoder reads from the word whose low `nbits` bits are `w`,
the rest 0. Every row has 32 bits (R81). -/
def decodeTableWord (nbits w : Nat) : Option Instr :=
  match decodeBytes (Machine.leBytes 4 (w % 2 ^ nbits)) with
  | .ok i => some i
  | .error _ => none

end Sys2Proof
end

