-- ==== Sys2Proof/Config.lean ====
section
/-! DEFINITION. What an instance of the block fixes (spec/00_scope.md R7) and the free values: what the spec
leaves open and asks a model to draw freely (spec/93_implementation_defined.md sections 1 and 3). -/

namespace Sys2Proof.Config

/-- The default of the parameter N_IN (R7). State holds the instance's own value, so statements quantify over it. -/
def nInDefault : Nat := 4096

/-- The values R7 allows for N_IN: a multiple of 4 with 4 <= N_IN <= 65536. -/
abbrev LegalNIn (n : Nat) : Prop := n % 4 = 0 ∧ 4 ≤ n ∧ n ≤ 65536

/-- ALPHA_MAX of R7. -/
def alphaMax : Nat := 256

/-- CODE_MAX of R7: the length of the code of 2^64 - 1 in radix 2. -/
def codeMax : Nat := 64

/-- FREE VALUE (R40, R234; log entry 1): what the byte at a buffer offset reads as while neither the host nor
the engine has written it since the reset with that number. -/
opaque freeByte (epoch offset : Nat) : Byte

/-- FREE VALUE (R241; log entry 2): what the port returns for a read of `bytes` bytes at a result register or in
CODEBUF while BUSY = 1, under the draw with that number. The same read under the same draw repeats (R57). -/
opaque freeRead (draw offset bytes : Nat) : Word

end Sys2Proof.Config
end

