-- ==== Sys2Proof/Machine/State.lean ====
section
/-! DEFINITION. The state of the block and of its surroundings as plain data, why a step can stop, and the
state after reset (spec/10_state.md R20 to R45; spec/60_exceptions.md R202; spec/20_memory.md R50). -/

namespace Sys2Proof.Machine

/-- The error kinds of R202. `unsupportedPlatform` (code 2) is never set (R209). The reserved codes 3..15 are
not values of the type, so no state holds one (log entry 6). -/
inductive ErrKind where
  | invalidArgument
  | unsupportedPlatform
  deriving DecidableEq, Repr

/-- The cause codes of R202 other than NONE; the reserved codes 0x0A..0xFF are not values of the type
(log entry 6). -/
inductive Cause where
  | illegalCmd
  | rotRange
  | bufRange
  | alphaLen
  | alphaDup
  | radix1
  | codeLen
  | codeSym
  | decodeOvf
  deriving DecidableEq, Repr

/-- STATUS, field by field (R23). `errKind` and `errCause` are `none` where the fields read 0. -/
structure Status where
  busy : Bool
  done : Bool
  err : Bool
  wbusy : Bool
  errKind : Option ErrKind
  errCause : Option Cause
  deriving DecidableEq, Repr

/-- STATUS after reset: every field 0 (R23). -/
def Status.cleared : Status :=
  { busy := false, done := false, err := false, wbusy := false, errKind := none, errCause := none }

/-- The widths the host port takes: n in 1, 2, 4 (R50). -/
inductive Width where
  | byte
  | half
  | word
  deriving DecidableEq, Repr

/-- What can come next in the one total order of host accesses and engine steps (R66), and the changes of the
reset input (R230). -/
inductive Event where
  /-- One of the LAT abstract delays of R7 and R201: nothing happens in the block. DESIGN CHOICE (log entry 20): an
  order need not bring one between an issue and the engine's turn, so R7's lower bound of 1 is not enforced. -/
  | delay
  /-- The engine takes its enabled step, if it has one (R201). -/
  | engine
  /-- HostWrite(off, n, v) (R50); the low n bytes of `v` are written (log entry 15). -/
  | write (off : BitVec 17) (n : Width) (v : Word)
  /-- HostRead(off, n) (R50). -/
  | read (off : BitVec 17) (n : Width)
  /-- The reset input is asserted (R230). -/
  | resetOn
  /-- The reset input is released (R230). -/
  | resetOff
  deriving DecidableEq, Repr

/-- What the port returned for one taken HostRead, the value zero-extended to 32 bits (R50, R51). -/
structure ReadBack where
  off : BitVec 17
  n : Width
  data : Word
  deriving DecidableEq, Repr

/-- The byte store of ALPHA, CODEBUF and INBUF, keyed by block offset (R11, R59), in canonical form: offsets
strictly rising. It lists exactly the bytes written since reset; an unlisted one is unwritten (R40, R234; log
entry 14). -/
abbrev Memory := List Host.Cell

/-- The state. ID, INBUF_SIZE, DIGEST and `irq` are constants and views, computed where they are read
(R22, R34, R35, R39). -/
structure State where
  /-- CTRL.IE (R24); SRST is never held as 1 (R231). -/
  ie : Bool
  /-- STATUS (R23). -/
  status : Status
  /-- CMD (R25). -/
  cmd : Word
  /-- SEED (R26). -/
  seed : Word
  /-- OFFSET (R27). -/
  offset : Word
  /-- COUNT (R28). -/
  count : Word
  /-- ALEN, bits 8:0 (R29). -/
  alen : BitVec 9
  /-- OPA, OPA_HI above OPA_LO (R30). -/
  opa : DWord
  /-- RES0 (R31). -/
  res0 : DWord
  /-- RES1 (R32). -/
  res1 : DWord
  /-- CODE_LEN, bits 6:0 (R33). -/
  codeLen : BitVec 7
  /-- ALPHA, CODEBUF and INBUF (R36, R37, R38). -/
  mem : Memory
  /-- The parameter N_IN of this instance, which INBUF_SIZE reads (R7, R34); no step changes it (log entry 7). -/
  nIn : Nat
  /-- The level of the reset input (R230). -/
  rstIn : Bool
  /-- The model's own: what the total order of R66 brings next, the first first (log entry 3). -/
  events : List Event
  /-- The model's own: what the port has returned to the host, the newest first (log entry 4). -/
  reads : List ReadBack
  /-- The model's own: the number of the current draw of `Config.freeRead`, which no read changes (log entry 2). -/
  draws : Nat
  /-- The model's own: the number of the current reset, which `Config.freeByte` is applied to (log entry 1). -/
  epoch : Nat
  deriving DecidableEq, Repr

/-- Why a step stops with a fault. -/
inductive Fault where
  /-- Raised by the host port for an access it does not take; R55: the model records it as the host-side fault
  `BusError(off, n)` and the host's run is faulted from that point (log entry 9). Safe: the machine stops where the
  spec says. -/
  | busError (off : BitVec 17) (n : Width)
  deriving DecidableEq, Repr

/-- Why a step is refused. -/
inductive Refusal where
  /-- Raised by exec for a command without a meaning; no arm raises it now. Safe. -/
  | notModelled (mnemonic : String)
  /-- Raised for a host access while reset is asserted: R230 says it is not taken and its response is the
  platform's business; spec/93 asks for a refusal (log entry 10). Safe: the machine stops. -/
  | accessDuringReset (off : BitVec 17) (n : Width)
  deriving DecidableEq, Repr

/-- Right after hardware reset (R21, R23, R24, R40, R230), with the default N_IN, no byte of a buffer written,
and nothing yet to come from outside (the model's own fields: log entries 1 to 5). -/
def State.reset : State where
  ie := false
  status := Status.cleared
  cmd := 0
  seed := 0
  offset := 0
  count := 0
  alen := 0
  opa := 0
  res0 := 0
  res1 := 0
  codeLen := 0
  mem := []
  nIn := Config.nInDefault
  rstIn := false
  events := []
  reads := []
  draws := 0
  epoch := 0

/-- The outcome of a step or of a command's meaning. -/
abbrev Result := Host.Outcome State Fault Refusal

end Sys2Proof.Machine
end

