-- ==== Sys2Proof/Machine/AddressMap.lean ====
section
/-! DEFINITION. The block's offset space: registers, buffers, and which host accesses the port takes
(spec/10_state.md R21; spec/20_memory.md R50 to R59). -/

namespace Sys2Proof.Machine

/-- n of an access, in bytes (R50). -/
def Width.bytes : Width → Nat
  | .byte => 1
  | .half => 2
  | .word => 4

/-- The registers of the map R21. -/
inductive Reg where
  | id
  | ctrl
  | status
  | cmd
  | seed
  | offset
  | count
  | alen
  | opaLo
  | opaHi
  | res0Lo
  | res0Hi
  | res1Lo
  | res1Hi
  | codeLen
  | inbufSize
  | digest0
  | digest1
  | digest2
  | digest3
  deriving DecidableEq, Repr

/-- The offset column of R21. -/
def Reg.offsetOf : Reg → Nat
  | .id => 0x000
  | .ctrl => 0x004
  | .status => 0x008
  | .cmd => 0x00C
  | .seed => 0x010
  | .offset => 0x014
  | .count => 0x018
  | .alen => 0x01C
  | .opaLo => 0x020
  | .opaHi => 0x024
  | .res0Lo => 0x028
  | .res0Hi => 0x02C
  | .res1Lo => 0x030
  | .res1Hi => 0x034
  | .codeLen => 0x038
  | .inbufSize => 0x03C
  | .digest0 => 0x040
  | .digest1 => 0x044
  | .digest2 => 0x048
  | .digest3 => 0x04C

/-- The rows of R21, in its order. -/
def Reg.rows : List Reg :=
  [.id, .ctrl, .status, .cmd, .seed, .offset, .count, .alen, .opaLo, .opaHi, .res0Lo, .res0Hi, .res1Lo,
    .res1Hi, .codeLen, .inbufSize, .digest0, .digest1, .digest2, .digest3]

/-- The register mapped at an offset, if any. -/
def regAt (off : Nat) : Option Reg := Reg.rows.find? (fun r => r.offsetOf == off)

/-- The three buffers (R36, R37, R38). -/
inductive Buffer where
  | alpha
  | codebuf
  | inbuf
  deriving DecidableEq, Repr

/-- First offset of a buffer (R59). -/
def Buffer.base : Buffer → Nat
  | .alpha => 0x100
  | .codebuf => 0x200
  | .inbuf => 0x10000

/-- Size of a buffer in bytes; INBUF has N_IN (R7, R59). -/
def Buffer.size (nIn : Nat) : Buffer → Nat
  | .alpha => Config.alphaMax
  | .codebuf => Config.codeMax
  | .inbuf => nIn

/-- `n` bytes from offset `off` all lie inside buffer `b` (R53). -/
def Buffer.holds (nIn off n : Nat) (b : Buffer) : Bool :=
  decide (b.base ≤ off) && decide (off + n ≤ b.base + b.size nIn)

/-- The one buffer that holds all `n` bytes from `off`, if any (R53, R59). -/
def bufferAt (nIn off n : Nat) : Option Buffer :=
  [Buffer.alpha, Buffer.codebuf, Buffer.inbuf].find? (Buffer.holds nIn off n)

/-- What a taken access reaches. -/
inductive Target where
  | reg (r : Reg)
  | buf (b : Buffer)
  deriving DecidableEq, Repr

/-- What an access of width `n` at `off` reaches, or `none` where the port answers with a bus error. Register
region: an aligned 32-bit access to a mapped register (R52). Elsewhere: naturally aligned, all bytes inside one
buffer (R53). Everything else: not taken (R55, R56). -/
def portTarget (nIn off : Nat) (n : Width) : Option Target :=
  if off < 0x100 then
    if n = .word ∧ off % 4 = 0 then (regAt off).map .reg else none
  else
    if off % n.bytes = 0 then (bufferAt nIn off n.bytes).map .buf else none

end Sys2Proof.Machine
end

