-- ==== Sys2Proof/Machine/Flags.lean ====
section
/-! DEFINITION. STATUS: its codes, its word, and every way its fields change; the interrupt output
(spec/10_state.md R23, R39; spec/60_exceptions.md R200 to R210). -/

namespace Sys2Proof.Machine

/-- ERRKIND codes (R202). -/
def ErrKind.code : ErrKind → BitVec 4
  | .invalidArgument => 1
  | .unsupportedPlatform => 2

/-- ERRCAUSE codes (R202). -/
def Cause.code : Cause → BitVec 8
  | .illegalCmd => 0x01
  | .rotRange => 0x02
  | .bufRange => 0x03
  | .alphaLen => 0x04
  | .alphaDup => 0x05
  | .radix1 => 0x06
  | .codeLen => 0x07
  | .codeSym => 0x08
  | .decodeOvf => 0x09

/-- ERRKIND, bits 7:4 (R23). -/
def Status.kindField (t : Status) : BitVec 4 :=
  match t.errKind with
  | none => 0
  | some k => k.code

/-- ERRCAUSE, bits 15:8 (R23). -/
def Status.causeField (t : Status) : BitVec 8 :=
  match t.errCause with
  | none => 0
  | some c => c.code

/-- The word a STATUS read returns: bits 31:16 reserved, ERRCAUSE, ERRKIND, WBUSY, ERR, DONE, BUSY (R23). -/
def Status.toWord (t : Status) : Word :=
  0#16 ++ t.causeField ++ t.kindField ++ BitVec.ofBool t.wbusy ++ BitVec.ofBool t.err
    ++ BitVec.ofBool t.done ++ BitVec.ofBool t.busy

/-- What issue does to STATUS (R200): DONE and the error report cleared, BUSY set, WBUSY kept. -/
def Status.issued (t : Status) : Status :=
  { t with busy := true, done := false, err := false, errKind := none, errCause := none }

/-- What a completion does to STATUS (R201). -/
def Status.completed (t : Status) : Status :=
  { t with busy := false, done := true }

/-- The error report of R204, with its completion. -/
def Status.reported (c : Cause) (t : Status) : Status :=
  { t with
    err := true, errKind := some .invalidArgument, errCause := some c, busy := false, done := true }

/-- A host write that is dropped because BUSY = 1 (R240). -/
def Status.dropped (t : Status) : Status :=
  { t with wbusy := true }

/-- A taken host write of `v` to STATUS (R23, R208): DONE, ERR and WBUSY clear where `v` has a 1, and clearing
ERR also clears ERRKIND and ERRCAUSE. BUSY, ERRKIND and ERRCAUSE are read-only. -/
def Status.acknowledged (v : Word) (t : Status) : Status :=
  { t with
    done := t.done && !v.getLsbD 1
    err := t.err && !v.getLsbD 2
    wbusy := t.wbusy && !v.getLsbD 3
    errKind := if v.getLsbD 2 then none else t.errKind
    errCause := if v.getLsbD 2 then none else t.errCause }

/-- The interrupt output, `irq = DONE & IE` (R39, R210). -/
def State.irq (s : State) : Bool := s.status.done && s.ie

end Sys2Proof.Machine
end

