-- ==== Sys2Proof/Machine/Ops.lean ====
section
/-! DEFINITION. The named operations over the byte store and the registers, the command life cycle, and the
error report with its acknowledgement (spec/00_scope.md R11; spec/60_exceptions.md R200 to R208;
spec/70_reset_and_hazards.md R230, R231). -/

namespace Sys2Proof.Machine

/-! ### The byte store -/

/-- The canonical form: offsets strictly rising, so none is listed twice. -/
abbrev Memory.wf (m : Memory) : Prop := m.Pairwise (fun a b => a.1 < b.1)

/-- The byte written at an offset, `none` while it is unwritten: what an unlisted offset reads as. -/
def Memory.lookup : Memory → Nat → Option Byte
  | [], _ => none
  | (a, b) :: m, k => if k = a then some b else Memory.lookup m k

/-- The store with byte `v` at offset `k`, in canonical form again. -/
def Memory.insert : Memory → Nat → Byte → Memory
  | [], k, v => [(k, v)]
  | (a, b) :: m, k, v =>
    if k < a then (k, v) :: (a, b) :: m
    else if k = a then (k, v) :: m
    else (a, b) :: Memory.insert m k v

/-- `byte(off)` of R11. An unwritten byte reads as its free draw of this reset (R40, R234; log entry 1). -/
def readByte (s : State) (off : Nat) : Byte :=
  match s.mem.lookup off with
  | some b => b
  | none => Config.freeByte s.epoch off

/-- The `n` bytes from `off`. -/
def readBytes (s : State) (off : Nat) : Nat → List Byte
  | 0 => []
  | n + 1 => readByte s off :: readBytes s (off + 1) n

/-- MemRead(off, n), a little-endian value, as a `w`-bit word (R11; w = 8*n at every use but the port's
zero-extended reads). No alignment is required of the engine (R64). -/
def memRead (w : Nat) (s : State) (off n : Nat) : BitVec w := BitVec.ofNat w (leNat (readBytes s off n))

/-- Write one byte. -/
def writeByte (s : State) (off : Nat) (b : Byte) : State := { s with mem := s.mem.insert off b }

/-- Write bytes at rising offsets from `off`. -/
def writeBytes (s : State) (off : Nat) : List Byte → State
  | [] => s
  | b :: bs => writeBytes (writeByte s off b) (off + 1) bs

/-- MemWrite(off, n, v): the `n` bytes of `v`, little-endian (R11, R51). -/
def memWrite (s : State) (off n v : Nat) : State := writeBytes s off (leBytes n v)

/-! ### Results -/

/-- `x[RES0] <- r0; x[RES1] <- r1`. -/
def setResult (r0 r1 : DWord) (s : State) : State := { s with res0 := r0, res1 := r1 }

/-- `x[CODE_LEN] <- n`. -/
def setCodeLen (n : BitVec 7) (s : State) : State := { s with codeLen := n }

/-! ### The command life cycle -/

/-- Issue (R200): the word is stored, the last report cleared, BUSY set; WBUSY is kept. -/
def issue (w : Word) (s : State) : State := { s with cmd := w, status := s.status.issued }

/-- Completion of a command that raised nothing (R201, R108). -/
def complete (s : State) : State := { s with status := s.status.completed }

/-- TAKING AN EXCEPTION: the error report of `raise InvalidArgument(cause)` (R204). Only STATUS is written; the
command word stays in CMD, and control goes nowhere because the block has no handler (R207). -/
def raise (c : Cause) (s : State) : State := { s with status := s.status.reported c }

/-- THE RETURN FROM IT: the host acknowledges the report by a write of `v` to STATUS (R208, R23). -/
def acknowledge (v : Word) (s : State) : State := { s with status := s.status.acknowledged v }

/-- How a command ends: with its results written and a completion, or with an error report on the state
before it, so that no partial result is visible (R201, R204). -/
def conclude (s : State) : Except Cause State → Result
  | .ok t => .next (complete t)
  | .error c => .next (raise c s)

/-- A host write lost because BUSY = 1 (R240). -/
def dropWrite (s : State) : State := { s with status := s.status.dropped }

/-- What a result read returns while BUSY = 1 is drawn anew: R57 lets it change where a write or an abstract step
of the engine (R7) comes between two reads (log entries 2 and 18). -/
def freshDraw (s : State) : State := { s with draws := s.draws + 1 }

/-! ### Reset -/

/-- The effect of reset on the block (R230): every register and field at its reset value, every buffer byte
unwritten and so a new draw (R234). What is not the block's own, the parameter N_IN, the reset input's level and
the model's records, is kept. -/
def resetBlock (s : State) : State :=
  { State.reset with
    nIn := s.nIn, rstIn := s.rstIn, events := s.events, reads := s.reads, draws := s.draws,
    epoch := s.epoch + 1 }

end Sys2Proof.Machine
end

