-- ==== Sys2Proof/Machine/Operands.lean ====
section
/-! DEFINITION. The implicit operands of the commands and the checks over them (spec/30_encoding.md R83;
spec/41_hash32.md R125; spec/43_short_code.md R172). -/

namespace Sys2Proof.Machine

/-- The 32-bit mixer input x[OPA][31:0] (R83, R30). -/
def opa32 (s : State) : Word := s.opa.setWidth 32

/-- The offset of the first byte of the hash input: INBUF_BASE + x[OFFSET] (R14, R83). -/
def sliceBase (s : State) : Nat := Buffer.inbuf.base + s.offset.toNat

/-- n of a hash command: x[COUNT] (R28). -/
def sliceLen (s : State) : Nat := s.count.toNat

/-- The range check R125, its sum exact: the slice lies inside INBUF. -/
def sliceInRange (s : State) : Bool := decide (s.offset.toNat + s.count.toNat ≤ s.nIn)

/-- zext_64(x[SEED]), the seed of HASH128S (R83, R151). -/
def seed64 (s : State) : DWord := s.seed.setWidth 64

/-- N, the radix: x[ALEN] (R29). -/
def radix (s : State) : Nat := s.alen.toNat

/-- Symbol j of the alphabet, ALPHA[j] (R36). -/
def alphaSym (s : State) (j : Nat) : Byte := readByte s (Buffer.alpha.base + j)

/-- The alphabet in use, ALPHA[0..N-1] (R36). -/
def alphabet (s : State) : List Byte := readBytes s Buffer.alpha.base (radix s)

/-- L, the short code's length: x[CODE_LEN] (R33). -/
def codeLength (s : State) : Nat := s.codeLen.toNat

/-- The short code, CODEBUF[0..L-1] (R37). -/
def shortCode (s : State) : List Byte := readBytes s Buffer.codebuf.base (codeLength s)

/-- Some symbol stands twice, compared as 8-bit values (R172). -/
def hasDuplicate : List Byte → Bool
  | [] => false
  | b :: bs => bs.contains b || hasDuplicate bs

/-- check_alphabet() of R172: the cause it raises, if any. -/
def alphabetFault (s : State) : Option Cause :=
  if radix s = 0 ∨ radix s > 256 then some .alphaLen
  else if hasDuplicate (alphabet s) then some .alphaDup
  else none

/-- index_of(c, A) of R182: where the symbol stands in the alphabet, if anywhere; 8-bit values are compared
exactly. -/
def indexOf (c : Byte) : List Byte → Option Nat
  | [] => none
  | a :: as => if a = c then some 0 else (indexOf c as).map (· + 1)

end Sys2Proof.Machine
end

