-- ==== Sys2Proof/Machine/BitMixer.lean ====
section
/-! DEFINITION. The BitMixer unit: the rotate and finalization functions and their commands
(spec/00_scope.md R8, R13; spec/40_bitmixer.md R100 to R108). -/

namespace Sys2Proof.Machine

/-- rotl32 of R13; the amounts it is undefined for reach no caller (R100, R101). -/
def rotl32 (v : Word) (n : Nat) : Word :=
  if n = 0 then v else (v <<< n) ||| (v >>> (32 - n))

/-- rotl64 of R13; the amounts it is undefined for reach no caller (R102, R103). -/
def rotl64 (v : DWord) (n : Nat) : DWord :=
  if n = 0 then v else (v <<< n) ||| (v >>> (64 - n))

/-- fmix32 of R104. -/
def fmix32 (h : Word) : Word :=
  let h := h ^^^ (h >>> 16)
  let h := h * 0x85ebca6b#32
  let h := h ^^^ (h >>> 13)
  let h := h * 0xc2b2ae35#32
  h ^^^ (h >>> 16)

/-- fmix64 of R106. -/
def fmix64 (k : DWord) : DWord :=
  let k := k ^^^ (k >>> 33)
  let k := k * 0xff51afd7ed558ccd#64
  let k := k ^^^ (k >>> 33)
  let k := k * 0xc4ceb9fe1a85ec53#64
  k ^^^ (k >>> 33)

/-- ROTL32 (R100). -/
def execRotl32 (amt : Nat) (s : State) : Result :=
  if amt ≥ 32 then conclude s (.error .rotRange)
  else conclude s (.ok (setResult ((rotl32 (opa32 s) amt).setWidth 64) 0 s))

/-- ROTL64 (R102). -/
def execRotl64 (amt : Nat) (s : State) : Result :=
  if amt ≥ 64 then conclude s (.error .rotRange)
  else conclude s (.ok (setResult (rotl64 s.opa amt) 0 s))

/-- FMIX32 (R104). -/
def execFmix32 (s : State) : Result :=
  conclude s (.ok (setResult ((fmix32 (opa32 s)).setWidth 64) 0 s))

/-- FMIX64 (R106). -/
def execFmix64 (s : State) : Result :=
  conclude s (.ok (setResult (fmix64 s.opa) 0 s))

end Sys2Proof.Machine
end

