-- ==== Sys2Proof/Machine/Hash128.lean ====
section
/-! DEFINITION. The MurmurHash3 x64_128 unit, HASH128 and HASH128S (spec/42_hash128.md R140 to R151). -/

namespace Sys2Proof.Machine

/-- The pass over k1 of R142, which the tail uses too (R145; the constants of the tail passes are the spec's
general knowledge G1). -/
def mixk1 (k : DWord) : DWord :=
  let k := k * 0x87c37b91114253d5#64
  let k := rotl64 k 31
  k * 0x4cf5ad432745937f#64

/-- The pass over k2 of R143, which the tail uses too (R145, G1). -/
def mixk2 (k : DWord) : DWord :=
  let k := k * 0x4cf5ad432745937f#64
  let k := rotl64 k 33
  k * 0x87c37b91114253d5#64

/-- One block: h1 by R142 and then h2 by R143, which reads the new h1. -/
def round128 (h : DWord × DWord) (k1 k2 : DWord) : DWord × DWord :=
  let h1 := h.1 ^^^ mixk1 k1
  let h1 := rotl64 h1 27
  let h1 := h1 + h.2
  let h1 := h1 * 5#64 + 0x52dce729#64
  let h2 := h.2 ^^^ mixk2 k2
  let h2 := rotl64 h2 31
  let h2 := h2 + h1
  let h2 := h2 * 5#64 + 0x38495ab5#64
  (h1, h2)

/-- The main loop of R142 and R143 over 16-byte blocks, in increasing i. -/
def body128 (s : State) (base blocks : Nat) (seed : DWord) : DWord × DWord :=
  (List.range blocks).foldl
    (fun h i => round128 h (memRead 64 s (base + 16 * i) 8) (memRead 64 s (base + 16 * i + 8) 8))
    (seed, seed)

/-- A tail word of R144: the `m` bytes from offset `t`, byte j shifted left by 8*j. -/
def tailWord64 (s : State) (t : Nat) : Nat → DWord
  | 0 => 0
  | m + 1 => tailWord64 s t m ^^^ ((readByte s (t + m)).setWidth 64 <<< (8 * m))

/-- The tail of R144 and R145 over the `r` bytes from offset `t`, r < 16: the pass of k2 where byte 8 is
present, then the pass of k1 where byte 0 is. -/
def tail128 (s : State) (t r : Nat) (h : DWord × DWord) : DWord × DWord :=
  let k1 := tailWord64 s t (min r 8)
  let k2 := tailWord64 s (t + 8) (r - 8)
  let h2 := if r > 8 then h.2 ^^^ mixk2 k2 else h.2
  let h1 := if r > 0 then h.1 ^^^ mixk1 k1 else h.1
  (h1, h2)

/-- The finalization of R146. -/
def final128 (n : Nat) (h : DWord × DWord) : DWord × DWord :=
  let h1 := h.1 ^^^ BitVec.ofNat 64 n
  let h2 := h.2 ^^^ BitVec.ofNat 64 n
  let h1 := h1 + h2
  let h2 := h2 + h1
  let h1 := fmix64 h1
  let h2 := fmix64 h2
  let h1 := h1 + h2
  let h2 := h2 + h1
  (h1, h2)

/-- hash128 of R141 to R146 over the `n` bytes from offset `base`. -/
def hash128 (s : State) (base n : Nat) (seed : DWord) : DWord × DWord :=
  final128 n (tail128 s (base + 16 * (n / 16)) (n % 16) (body128 s base (n / 16) seed))

/-- The two forms' shared operation: the range check of R125, then the hash from `seed` into RES0 and RES1
(R140, R147). -/
def hash128Into (seed : DWord) (s : State) : Except Cause State :=
  if sliceInRange s then
    let h := hash128 s (sliceBase s) (sliceLen s) seed
    .ok (setResult h.1 h.2 s)
  else .error .bufRange

/-- HASH128 (R140): seed zero, SEED is not read. -/
def execHash128 (s : State) : Result := conclude s (hash128Into 0 s)

/-- HASH128S (R150): the seed of R151 (general knowledge G2). -/
def execHash128s (s : State) : Result := conclude s (hash128Into (seed64 s) s)

end Sys2Proof.Machine
end

