-- ==== Sys2Proof/Machine/Hash32.lean ====
section
/-! DEFINITION. The MurmurHash3 x86_32 unit and HASH32 (spec/41_hash32.md R120 to R128). -/

namespace Sys2Proof.Machine

/-- mixk32 of R121. -/
def mixk32 (k : Word) : Word :=
  let k := k * 0xcc9e2d51#32
  let k := rotl32 k 15
  k * 0x1b873593#32

/-- One block of the main loop of R122. -/
def round32 (h1 k1 : Word) : Word :=
  let h1 := h1 ^^^ mixk32 k1
  let h1 := rotl32 h1 13
  h1 * 5#32 + 0xe6546b64#32

/-- The main loop of R122: blocks i = 0, 1, ... below the given number, in that order. -/
def body32 (s : State) (base blocks : Nat) (seed : Word) : Word :=
  (List.range blocks).foldl (fun h1 i => round32 h1 (memRead 32 s (base + 4 * i) 4)) seed

/-- k1 of the tail of R123: the `r` bytes from offset `t`, r < 4. -/
def tailWord32 (s : State) (t r : Nat) : Word :=
  let k1 : Word := 0
  let k1 := if r ≥ 3 then k1 ^^^ ((readByte s (t + 2)).setWidth 32 <<< 16) else k1
  let k1 := if r ≥ 2 then k1 ^^^ ((readByte s (t + 1)).setWidth 32 <<< 8) else k1
  if r ≥ 1 then k1 ^^^ (readByte s t).setWidth 32 else k1

/-- The tail step of R123: no transform when r = 0. -/
def tail32 (s : State) (t r : Nat) (h1 : Word) : Word :=
  if r ≥ 1 then h1 ^^^ mixk32 (tailWord32 s t r) else h1

/-- hash32 of R121 to R124 over the `n` bytes from offset `base`. -/
def hash32 (s : State) (base n : Nat) (seed : Word) : Word :=
  let h1 := body32 s base (n / 4) seed
  let h1 := tail32 s (base + 4 * (n / 4)) (n % 4) h1
  fmix32 (h1 ^^^ BitVec.ofNat 32 n)

/-- HASH32 (R120, R125). -/
def execHash32 (s : State) : Result :=
  if sliceInRange s then
    conclude s (.ok (setResult ((hash32 s (sliceBase s) (sliceLen s) s.seed).setWidth 64) 0 s))
  else conclude s (.error .bufRange)

end Sys2Proof.Machine
end

