-- ==== Sys2Proof/Machine/ShortCode.lean ====
section
/-! DEFINITION. The short-code unit, ENCODE and DECODE (spec/43_short_code.md R170 to R184). -/

namespace Sys2Proof.Machine

/-- The repeated division of R171: the digits of `v` in radix `n`, least significant first. The first argument
bounds the number of divisions; 64 are enough for every u64 and n >= 2 (R178). -/
def digits (n : Nat) : Nat → Nat → List Nat
  | 0, _ => []
  | fuel + 1, v => if v = 0 then [] else (v % n) :: digits n fuel (v / n)

/-- encode(v, A, N) of R171 as digit values, most significant first; zero is the one digit 0 (R173). -/
def codeDigits (n v : Nat) : List Nat :=
  if v = 0 then [0] else (digits n Config.codeMax v).reverse

/-- encode(v, A, N) of R171: the digits' symbols in the alphabet. -/
def encodeCode (s : State) (v : Nat) : List Byte := (codeDigits (radix s) v).map (alphaSym s)

/-- The body of ENCODE (R170, R176): its checks in the order of R205, then CODEBUF[0..L-1] and CODE_LEN. -/
def encodeInto (s : State) : Except Cause State :=
  match alphabetFault s with
  | some c => .error c
  | none =>
    if radix s = 1 ∧ s.opa ≠ 0 then .error .radix1
    else
      let code := encodeCode s s.opa.toNat
      .ok (setCodeLen (BitVec.ofNat 7 code.length) (writeBytes s Buffer.codebuf.base code))

/-- ENCODE (R170). -/
def execEncode (s : State) : Result := conclude s (encodeInto s)

/-- The loop of R180 over the symbols of a code, most significant first, from the value `v` so far; exact
arithmetic (R181). At one position the symbol is checked before the overflow. -/
def decodeSymbols (alpha : List Byte) (n : Nat) : Nat → List Byte → Except Cause Nat
  | v, [] => .ok v
  | v, c :: cs =>
    match indexOf c alpha with
    | none => .error .codeSym
    | some k =>
      if v * n + k > 2 ^ 64 - 1 then .error .decodeOvf else decodeSymbols alpha n (v * n + k) cs

/-- The body of DECODE (R180): its checks in the order of R205, then RES0 and RES1. -/
def decodeInto (s : State) : Except Cause State :=
  match alphabetFault s with
  | some c => .error c
  | none =>
    if codeLength s = 0 ∨ codeLength s > 64 then .error .codeLen
    else
      match decodeSymbols (alphabet s) (radix s) 0 (shortCode s) with
      | .error c => .error c
      | .ok v => .ok (setResult (BitVec.ofNat 64 v) 0 s)

/-- DECODE (R180). -/
def execDecode (s : State) : Result := conclude s (decodeInto s)

end Sys2Proof.Machine
end

