-- ==== Sys2Proof/Machine/Dispatch.lean ====
section
/-! DEFINITION. Which meaning each command has: what its completion step does (spec/60_exceptions.md R201). -/

namespace Sys2Proof.Machine

def exec (i : Instr) (s : State) : Host.Outcome State Fault Refusal :=
  match i with
  | .rotl32 amt => Sys2Proof.Machine.execRotl32 amt s
  | .rotl64 amt => Sys2Proof.Machine.execRotl64 amt s
  | .fmix32 => Sys2Proof.Machine.execFmix32 s
  | .fmix64 => Sys2Proof.Machine.execFmix64 s
  | .hash32 => Sys2Proof.Machine.execHash32 s
  | .hash128 => Sys2Proof.Machine.execHash128 s
  | .hash128s => Sys2Proof.Machine.execHash128s s
  | .encode => Sys2Proof.Machine.execEncode s
  | .decode => Sys2Proof.Machine.execDecode s

end Sys2Proof.Machine
end

