-- ==== Sys2Proof/Machine/Port.lean ====
section
/-! DEFINITION. The host port: what a taken HostWrite and HostRead do (spec/10_state.md R21 to R45;
spec/20_memory.md R50 to R58; spec/70_reset_and_hazards.md R231, R240, R241). -/

namespace Sys2Proof.Machine

/-- The constant of ID: "MH3" above the version 1 of the programmer's model (R22). -/
def idValue : Word := 0x4D483301

/-- v[31:0] and v[63:32] of a 64-bit register (R21). -/
def loHalf (v : DWord) : Word := v.extractLsb' 0 32

def hiHalf (v : DWord) : Word := v.extractLsb' 32 32

/-- A 64-bit register with one half replaced (R21). -/
def withLo (v : DWord) (w : Word) : DWord := hiHalf v ++ w

def withHi (v : DWord) (w : Word) : DWord := w ++ loHalf v

/-- Digest byte d[i] of R35: RES0 and then RES1, each big-endian. -/
def digestByte (s : State) (i : Nat) : Byte :=
  if i < 8 then s.res0.extractLsb' (56 - 8 * i) 8 else s.res1.extractLsb' (56 - 8 * (i - 8)) 8

/-- DIGESTk of R35: `d[4k] | d[4k+1] << 8 | d[4k+2] << 16 | d[4k+3] << 24`. -/
def digestWord (s : State) (k : Nat) : Word :=
  (digestByte s (4 * k)).setWidth 32 ||| ((digestByte s (4 * k + 1)).setWidth 32 <<< 8)
    ||| ((digestByte s (4 * k + 2)).setWidth 32 <<< 16) ||| ((digestByte s (4 * k + 3)).setWidth 32 <<< 24)

/-- A register's value with its reserved bits 0 (R21 to R35, R45). CTRL.SRST reads 0 (R24). -/
def readReg (r : Reg) (s : State) : Word :=
  match r with
  | .id => idValue
  | .ctrl => (BitVec.ofBool s.ie).setWidth 32
  | .status => s.status.toWord
  | .cmd => s.cmd
  | .seed => s.seed
  | .offset => s.offset
  | .count => s.count
  | .alen => s.alen.setWidth 32
  | .opaLo => loHalf s.opa
  | .opaHi => hiHalf s.opa
  | .res0Lo => loHalf s.res0
  | .res0Hi => hiHalf s.res0
  | .res1Lo => loHalf s.res1
  | .res1Hi => hiHalf s.res1
  | .codeLen => s.codeLen.setWidth 32
  | .inbufSize => BitVec.ofNat 32 s.nIn
  | .digest0 => digestWord s 0
  | .digest1 => digestWord s 1
  | .digest2 => digestWord s 2
  | .digest3 => digestWord s 3

/-- A write of input state: taken while BUSY = 0, else dropped (R240). -/
def unlessBusy (s t : State) : State := if s.status.busy then dropWrite s else t

/-- A taken host write of `v` to CTRL: with SRST = 1 the soft reset of R231, which ignores the other bits; else
IE is stored (R24). -/
def writeCtrl (v : Word) (s : State) : State :=
  if v.getLsbD 1 then resetBlock s else { s with ie := v.getLsbD 0 }

/-- A taken host write of `v` to a register (R54): read-only registers ignore it, CTRL and STATUS take it even
while BUSY = 1, the input registers only while BUSY = 0 (R240). -/
def writeReg (r : Reg) (v : Word) (s : State) : State :=
  match r with
  | .ctrl => writeCtrl v s
  | .status => acknowledge v s
  | .cmd => unlessBusy s (issue v s)
  | .seed => unlessBusy s { s with seed := v }
  | .offset => unlessBusy s { s with offset := v }
  | .count => unlessBusy s { s with count := v }
  | .alen => unlessBusy s { s with alen := v.setWidth 9 }
  | .opaLo => unlessBusy s { s with opa := withLo s.opa v }
  | .opaHi => unlessBusy s { s with opa := withHi s.opa v }
  | .codeLen => unlessBusy s { s with codeLen := v.setWidth 7 }
  | .id => s
  | .res0Lo => s
  | .res0Hi => s
  | .res1Lo => s
  | .res1Hi => s
  | .inbufSize => s
  | .digest0 => s
  | .digest1 => s
  | .digest2 => s
  | .digest3 => s

/-- HostWrite(off, n, v) (R50): a bus error where the port does not take it (R55), else the effect of R53 or
R54. -/
def hostWrite (off : BitVec 17) (n : Width) (v : Word) (s : State) : Result :=
  match portTarget s.nIn off.toNat n with
  | none => .fault (.busError off n)
  | some (.reg r) => .next (writeReg r v s)
  | some (.buf _) => .next (unlessBusy s (memWrite s off.toNat n.bytes v.toNat))

/-- What a read returns an UNSPECIFIED value of while BUSY = 1: the results, DIGEST, CODE_LEN and CODEBUF
(R241). -/
def Target.isResult : Target → Bool
  | .reg .res0Lo => true
  | .reg .res0Hi => true
  | .reg .res1Lo => true
  | .reg .res1Hi => true
  | .reg .digest0 => true
  | .reg .digest1 => true
  | .reg .digest2 => true
  | .reg .digest3 => true
  | .reg .codeLen => true
  | .reg _ => false
  | .buf .codebuf => true
  | .buf _ => false

/-- The bits a draw can show at a target: a buffer access carries its own bytes (R51), and the reserved bits of
CODE_LEN read 0 (R44, R45; log entry 2). -/
def Target.bits (n : Width) : Target → Nat
  | .reg .codeLen => 7
  | .reg _ => 32
  | .buf _ => 8 * n.bytes

/-- A free draw cut to the bits the target holds. -/
def drawnValue (n : Width) (t : Target) (d : Word) : Word := (d.setWidth (t.bits n)).setWidth 32

/-- The value a target holds (R53, R54). -/
def storedValue (off : Nat) (n : Width) (s : State) : Target → Word
  | .reg r => readReg r s
  | .buf _ => memRead 32 s off n.bytes

/-- The port returns `d` to the host. -/
def returnData (off : BitVec 17) (n : Width) (d : Word) (s : State) : State :=
  { s with reads := { off := off, n := n, data := d } :: s.reads }

/-- HostRead(off, n) (R50): a bus error returns no data (R55); a result read while BUSY = 1 is a free draw
(R241), the same one for the same read until the next write or delay (R57; log entry 2); every other taken read
returns what is stored. No read has an effect on the block (R57). -/
def hostRead (off : BitVec 17) (n : Width) (s : State) : Result :=
  match portTarget s.nIn off.toNat n with
  | none => .fault (.busError off n)
  | some t =>
    if s.status.busy && t.isResult then
      .next (returnData off n (drawnValue n t (Config.freeRead s.draws off.toNat n.bytes)) s)
    else .next (returnData off n (storedValue off.toNat n s t) s)

end Sys2Proof.Machine
end

