-- ==== Sys2Proof/Machine/Engine.lean ====
section
/-! DEFINITION. The engine's completion step, and what each event does (spec/20_memory.md R66;
spec/60_exceptions.md R201, R206; spec/70_reset_and_hazards.md R230). -/

namespace Sys2Proof.Machine

/-- The completion step (R201): decode x[CMD] (R85) and perform it; an illegal word raises ILLEGAL_CMD (R86). -/
def completion (s : State) : Result :=
  match decode s.cmd with
  | .ok i => exec i s
  | .error _ => .next (raise .illegalCmd s)

/-- The engine's turn: while BUSY = 0 it has no step (R201). -/
def engineTurn (s : State) : Result := if s.status.busy then completion s else .next s

/-- An event while reset is asserted (R230): the block keeps its reset values, a host access is not taken and
has no meaning here (spec/93 section 1), and only the release changes the input. -/
def eventInReset (e : Event) (s : State) : Result :=
  match e with
  | .delay => .next (resetBlock s)
  | .engine => .next (resetBlock s)
  | .write off n _ => .refused (.accessDuringReset off n)
  | .read off n => .refused (.accessDuringReset off n)
  | .resetOn => .next (resetBlock s)
  | .resetOff => .next (resetBlock { s with rstIn := false })

/-- An event while reset is not asserted. A delay and a write let a later result read draw anew (R57, R241; log
entries 2 and 18); beyond that a delay does nothing. The engine's turn may follow the issue with no delay between
(log entry 20). -/
def eventInRun (e : Event) (s : State) : Result :=
  match e with
  | .delay => .next (freshDraw s)
  | .engine => engineTurn s
  | .write off n v => hostWrite off n v (freshDraw s)
  | .read off n => hostRead off n s
  | .resetOn => .next (resetBlock { s with rstIn := true })
  | .resetOff => .next s

/-- One event. -/
def runEvent (e : Event) (s : State) : Result :=
  if s.rstIn then eventInReset e s else eventInRun e s

/-- Nothing more comes from outside: the reset input stays as it is, and a pending command completes, because
a command always has its completion step and the engine eventually takes it (R219, R245; log entry 3), here with
no delay before it (log entry 20). -/
def runQuiet (s : State) : Result := if s.rstIn then .next (resetBlock s) else engineTurn s

end Sys2Proof.Machine
end

