-- ==== Sys2Proof/Machine/Step.lean ====
section
/-! DEFINITION. One step of the machine: the next element of the one total order of host accesses and engine
steps (spec/20_memory.md R66), and how the host places a command (log entry 5). -/

namespace Sys2Proof.Machine

/-- Take the next event; with none listed, what the block does by itself. -/
def step (s : State) : Host.Outcome State Fault Refusal :=
  match s.events with
  | [] => runQuiet s
  | e :: es => runEvent e { s with events := es }

/-- The command word `w` issued (R200) on a block not held in reset, with the engine's step next in the order:
the very next step decodes and performs it. The block fetches no code (R69), so this is what a fetch is here. -/
def State.withFetchWord (s : State) (nbits w : Nat) : State :=
  let t := issue (BitVec.ofNat 32 (w % 2 ^ nbits)) s
  { t with rstIn := false, events := .engine :: s.events }

end Sys2Proof.Machine
end

