-- ==== Sys2Proof/Certificates/Slice0/Reference.lean ====
section
/-! DEFINITION. The two hash algorithms again, for statements to hold the model against: over a list of bytes
instead of the block's store, in natural numbers reduced modulo 2^32 or 2^64 instead of bit vectors
(spec/00_scope.md R8, R10, R13; spec/40_bitmixer.md R104, R106, R107; spec/41_hash32.md R121 to R124;
spec/42_hash128.md R141 to R146). Nothing of the model uses this file. -/

namespace Sys2Proof.Reference

/-- Rotate the `w`-bit value `v` left by `n` (R13). -/
def rotl (w v n : Nat) : Nat := v * 2 ^ n % 2 ^ w + v / 2 ^ (w - n)

/-- The little-endian value of some bytes (R11). -/
def value (bs : List Byte) : Nat := bs.foldr (fun b v => b.toNat + 256 * v) 0

/-- fmix32 (R104). -/
def fmix32 (h : Nat) : Nat :=
  let a := (h ^^^ h / 2 ^ 16) * 0x85ebca6b % 2 ^ 32
  let b := (a ^^^ a / 2 ^ 13) * 0xc2b2ae35 % 2 ^ 32
  b ^^^ b / 2 ^ 16

/-- fmix64 (R106). -/
def fmix64 (k : Nat) : Nat :=
  let a := (k ^^^ k / 2 ^ 33) * 0xff51afd7ed558ccd % 2 ^ 64
  let b := (a ^^^ a / 2 ^ 33) * 0xc4ceb9fe1a85ec53 % 2 ^ 64
  b ^^^ b / 2 ^ 33

/-- mixk32 (R121). -/
def mix32 (k : Nat) : Nat := rotl 32 (k * 0xcc9e2d51 % 2 ^ 32) 15 * 0x1b873593 % 2 ^ 32

/-- Main loop and tail of the 32-bit hash (R122, R123). -/
def consume32 : Nat → List Byte → Nat
  | h, a :: b :: c :: d :: rest =>
    consume32 ((rotl 32 (h ^^^ mix32 (value [a, b, c, d])) 13 * 5 + 0xe6546b64) % 2 ^ 32) rest
  | h, [] => h
  | h, tail => h ^^^ mix32 (value tail)

/-- hash32 (R121 to R124). -/
def hash32 (bs : List Byte) (seed : Nat) : Nat := fmix32 (consume32 seed bs ^^^ bs.length)

/-- The k1 pass of R142 and R145. -/
def mixA (k : Nat) : Nat :=
  rotl 64 (k * 0x87c37b91114253d5 % 2 ^ 64) 31 * 0x4cf5ad432745937f % 2 ^ 64

/-- The k2 pass of R143 and R145. -/
def mixB (k : Nat) : Nat :=
  rotl 64 (k * 0x4cf5ad432745937f % 2 ^ 64) 33 * 0x87c37b91114253d5 % 2 ^ 64

/-- One block of R142. -/
def nextH1 (h1 h2 k1 : Nat) : Nat := ((rotl 64 (h1 ^^^ mixA k1) 27 + h2) * 5 + 0x52dce729) % 2 ^ 64

/-- One block of R143; `h1` is the new one. -/
def nextH2 (h1 h2 k2 : Nat) : Nat := ((rotl 64 (h2 ^^^ mixB k2) 31 + h1) * 5 + 0x38495ab5) % 2 ^ 64

/-- Main loop and tail of the 128-bit hash (R142 to R145); the first argument bounds the number of blocks. -/
def consume128 : Nat → Nat → Nat → List Byte → Nat × Nat
  | fuel + 1, h1, h2, bs =>
    if 16 ≤ bs.length then
      let n1 := nextH1 h1 h2 (value (bs.take 8))
      consume128 fuel n1 (nextH2 n1 h2 (value ((bs.drop 8).take 8))) (bs.drop 16)
    else (h1 ^^^ mixA (value (bs.take 8)), h2 ^^^ mixB (value (bs.drop 8)))
  | 0, h1, h2, _ => (h1, h2)

/-- hash128 (R141 to R146). -/
def hash128 (bs : List Byte) (seed : Nat) : Nat × Nat :=
  let h := consume128 (bs.length / 16 + 1) seed seed bs
  let a1 := ((h.1 ^^^ bs.length) + (h.2 ^^^ bs.length)) % 2 ^ 64
  let a2 := ((h.2 ^^^ bs.length) + a1) % 2 ^ 64
  let b1 := (fmix64 a1 + fmix64 a2) % 2 ^ 64
  (b1, (fmix64 a2 + b1) % 2 ^ 64)

end Sys2Proof.Reference
end

