-- ==== Sys2Proof/Machine/HostProgram.lean ====
section
/-! DEFINITION. The host agent as far as the spec gives it: assembler syntax, host statements, their
pseudo-instructions, and a host program running against the block (spec/00_scope.md R6; spec/30_encoding.md R88,
R89, R90). `core` does not use it: what a host writes and reads reaches the block as events. -/

namespace Sys2Proof.Machine

/-- What R88's syntax can name: a command, or a raw word that may be illegal. -/
inductive CommandText where
  | command (i : Instr)
  | raw (w : Word)
  deriving DecidableEq, Repr

/-- The assembler of R88: the word of a line, none where `#n` is outside 0..255. -/
def CommandText.assemble : CommandText → Option Word
  | .command i => if i.wf then some (encode i) else none
  | .raw w => some w

/-- The host statements of R89; temporaries tK and labels are numbers. -/
inductive HostStmt where
  | wr (r : Reg) (imm : Word)
  | wrb (off : BitVec 17) (imm : Byte)
  | wrh (off : BitVec 17) (imm : BitVec 16)
  | ww (off : BitVec 17) (imm : Word)
  | rd (r : Reg) (k : Nat)
  | rdb (off : BitVec 17) (k : Nat)
  | andImm (k j : Nat) (imm : Word)
  | bz (k l : Nat)
  | bnz (k l : Nat)
  | label (l : Nat)
  | halt
  deriving DecidableEq, Repr

/-- The bus transaction column of R89. -/
def HostStmt.bus : HostStmt → Option Event
  | .wr r imm => some (.write (BitVec.ofNat 17 r.offsetOf) .word imm)
  | .wrb off imm => some (.write off .byte (imm.setWidth 32))
  | .wrh off imm => some (.write off .half (imm.setWidth 32))
  | .ww off imm => some (.write off .word imm)
  | .rd r _ => some (.read (BitVec.ofNat 17 r.offsetOf) .word)
  | .rdb off _ => some (.read off .byte)
  | .andImm _ _ _ => none
  | .bz _ _ => none
  | .bnz _ _ => none
  | .label _ => none
  | .halt => none

/-! The pseudo-instructions of R90. -/

/-- `issue <command>`; none where the command does not assemble. -/
def issueStmt (c : CommandText) : Option (List HostStmt) := c.assemble.map (fun w => [.wr .cmd w])

/-- `wait`, with the fresh label `l`. -/
def waitStmt (l : Nat) : List HostStmt := [.label l, .rd .status 0, .andImm 0 0 0x2, .bz 0 l]

/-- `clear`. -/
def clearStmt : List HostStmt := [.wr .status 0x0000000E]

/-- `ld64 NAME, imm64` for the 64-bit register with these halves. -/
def ld64Stmt (lo hi : Reg) (v : DWord) : List HostStmt := [.wr lo (loHalf v), .wr hi (hiHalf v)]

/-- `ldstr off, "c0c1...ck"`. DESIGN CHOICE (log entry 19): R90 does not say what `off+j` past 0x1FFFF, the last
offset of R50, is; here it goes on from offset 0, where a byte write gets a bus error. -/
def ldstrStmt (off : BitVec 17) : List Byte → List HostStmt
  | [] => []
  | c :: cs => .wrb off c :: ldstrStmt (off + 1) cs

/-- `rd64 NAME -> tK`, the temporaries tK.lo and tK.hi being `klo` and `khi`. -/
def rd64Stmt (lo hi : Reg) (klo khi : Nat) : List HostStmt := [.rd lo klo, .rd hi khi]

/-- Whose turn comes next in the total order of R66, for a host program: the host's next statement, the engine's
turn, or one of the engine's abstract delays (R7, R201), after which a busy result read may change (log entry 18). -/
inductive HostTurn where
  | host
  | engine
  | delay
  deriving DecidableEq, Repr

/-- The host with the block it drives: its temporaries (the last written first; an unwritten one reads 0, log
entry 8), the statement it is at, and what comes when between its statements. -/
structure HostAgent where
  block : State
  temps : List (Nat × Word)
  pc : Nat
  halted : Bool
  /-- What comes next in the total order of R66, the first first. -/
  order : List HostTurn
  deriving DecidableEq, Repr

/-- The value of tK. -/
def HostAgent.temp (h : HostAgent) (k : Nat) : Word :=
  match h.temps.find? (fun t => t.1 == k) with
  | some t => t.2
  | none => 0

/-- Where a label stands in the program. DESIGN CHOICE (log entry 8): R89 does not say where a branch goes when a
label stands twice, or nowhere; here it goes to the first place, or past the end. -/
def labelIndex (prog : List HostStmt) (l : Nat) : Nat := prog.findIdx (fun t => t == .label l)

/-- What a statement does beside its bus transaction; a read's temporary takes the data the port returned. -/
def HostStmt.after (prog : List HostStmt) (st : HostStmt) (h : HostAgent) : HostAgent :=
  match st with
  | .rd _ k => { h with temps := (k, (h.block.reads.head?.map (·.data)).getD 0) :: h.temps, pc := h.pc + 1 }
  | .rdb _ k => { h with temps := (k, (h.block.reads.head?.map (·.data)).getD 0) :: h.temps, pc := h.pc + 1 }
  | .andImm k j imm => { h with temps := (k, h.temp j &&& imm) :: h.temps, pc := h.pc + 1 }
  | .bz k l => { h with pc := if h.temp k = 0 then labelIndex prog l else h.pc + 1 }
  | .bnz k l => { h with pc := if h.temp k = 0 then h.pc + 1 else labelIndex prog l }
  | .halt => { h with halted := true }
  | .wr _ _ => { h with pc := h.pc + 1 }
  | .wrb _ _ => { h with pc := h.pc + 1 }
  | .wrh _ _ => { h with pc := h.pc + 1 }
  | .ww _ _ => { h with pc := h.pc + 1 }
  | .label _ => { h with pc := h.pc + 1 }

/-- The block takes `e` next and the host goes on with `k`. -/
def HostAgent.take (e : Event) (k : HostAgent → HostAgent) (h : HostAgent) :
    Host.Outcome HostAgent Fault Refusal :=
  match step { h.block with events := e :: h.block.events } with
  | .next b => .next (k { h with block := b })
  | .fault r => .fault r
  | .refused r => .refused r

/-- One host statement (R89); a program ends at `halt` or, a DESIGN CHOICE (log entry 8), after its last
statement. -/
def HostAgent.statement (prog : List HostStmt) (h : HostAgent) : Host.Outcome HostAgent Fault Refusal :=
  match prog[h.pc]? with
  | none => .next { h with halted := true }
  | some st =>
    match st.bus with
    | some e => h.take e (st.after prog)
    | none => .next (st.after prog h)

/-- One step of host and block together. Where the order lists nothing more, a pending command completes before
the host goes on, with no delay before it, so that a `wait` ends (R90, R245): a DESIGN CHOICE, log entries 3 and
20; an order that lists delays, or host statements before the engine's turn, has the other runs. -/
def HostAgent.step (prog : List HostStmt) (h : HostAgent) : Host.Outcome HostAgent Fault Refusal :=
  if h.halted then .next h
  else
    match h.order with
    | .engine :: os => { h with order := os }.take .engine id
    | .delay :: os => { h with order := os }.take .delay id
    | .host :: os => { h with order := os }.statement prog
    | [] => if h.block.status.busy then h.take .engine id else h.statement prog

end Sys2Proof.Machine
end

