-- ==== Sys2Proof/Safety.lean ====
section
/-! DEFINITION. What statements are about: the invariants of the spec, the states a command ends in, and which
events leave a run whole (spec/10_state.md R23, R40, R42; spec/60_exceptions.md R204;
spec/43_short_code.md R172). -/

namespace Sys2Proof.Machine

/-- The invariants of STATUS that R23 lists. -/
abbrev Status.Legal (t : Status) : Prop :=
  (t.busy = true → t.done = false ∧ t.err = false)
    ∧ (t.err = false → t.errKind = none ∧ t.errCause = none)
    ∧ (t.err = true → t.errKind = some .invalidArgument ∧ t.errCause.isSome = true)

/-- The block's own registers and buffers as reset leaves them (R40, R230): every register at the value of R21,
no buffer byte written. -/
abbrev State.AtReset (s : State) : Prop :=
  s.ie = false ∧ s.status = Status.cleared ∧ s.cmd = 0 ∧ s.seed = 0 ∧ s.offset = 0 ∧ s.count = 0
    ∧ s.alen = 0 ∧ s.opa = 0 ∧ s.res0 = 0 ∧ s.res1 = 0 ∧ s.codeLen = 0 ∧ s.mem = []

/-- The offset of a buffer byte (R59). -/
abbrev InBuffer (nIn off : Nat) : Prop :=
  (0x100 ≤ off ∧ off < 0x200) ∨ (0x200 ≤ off ∧ off < 0x240) ∨ (0x10000 ≤ off ∧ off < 0x10000 + nIn)

/-- The invariant: STATUS legal (R23); the byte store canonical and holding buffer bytes only (R59, R60); N_IN a
legal parameter (R7); and, while reset is asserted, the block at its reset values (R230). -/
abbrev State.Inv (s : State) : Prop :=
  s.status.Legal ∧ s.mem.wf ∧ (∀ c ∈ s.mem, InBuffer s.nIn c.1) ∧ Config.LegalNIn s.nIn
    ∧ (s.rstIn = true → s.AtReset)

/-- After a command that succeeded with these results (R201): RES0, RES1, BUSY = 0 and DONE = 1, nothing else. -/
def State.succeeded (r0 r1 : DWord) (s : State) : State :=
  { s with res0 := r0, res1 := r1, status := { s.status with busy := false, done := true } }

/-- After a command that raised InvalidArgument with this cause (R204): the report, nothing else. -/
def State.failed (c : Cause) (s : State) : State :=
  { s with
    status :=
      { busy := false, done := true, err := true, wbusy := s.status.wbusy,
        errKind := some .invalidArgument, errCause := some c } }

/-- Every byte of the store reads the same in both states. -/
def SameBytes (s t : State) : Prop := ∀ off, readByte t off = readByte s off

/-- The operand state of R42, and the parameter, agree. -/
def SameOperands (s t : State) : Prop :=
  t.seed = s.seed ∧ t.offset = s.offset ∧ t.count = s.count ∧ t.alen = s.alen ∧ t.opa = s.opa
    ∧ t.codeLen = s.codeLen ∧ t.nIn = s.nIn ∧ SameBytes s t

/-- A valid alphabet (R172): 1 to 256 symbols, all different. -/
def ValidAlphabet (s : State) : Prop :=
  1 ≤ s.alen.toNat ∧ s.alen.toNat ≤ 256
    ∧ ∀ i j, i < j → j < s.alen.toNat → readByte s (0x100 + i) ≠ readByte s (0x100 + j)

/-- The bytes `off, off + 1, ..., off + n - 1`, in order. -/
def bytesFrom (s : State) (off n : Nat) : List Byte := (List.range n).map (fun j => readByte s (off + j))

/-- `ds` gives the places in the alphabet of the first symbols of the code: place `ds[j]` is below the radix and
ALPHA[ds[j]] = CODEBUF[j]. -/
def PlacesOf (s : State) (ds : List Nat) : Prop :=
  ∀ j (h : j < ds.length), ds[j] < s.alen.toNat ∧ readByte s (0x100 + ds[j]) = readByte s (0x200 + j)

/-- The positional value of digits in radix `n`, most significant first (R180). -/
def positional (n : Nat) (ds : List Nat) : Nat := ds.foldl (fun v d => v * n + d) 0

/-- The accesses the port takes, by the offsets and alignments of R52, R53 and R59. -/
def PortTakes (nIn off : Nat) (n : Width) : Prop :=
  (off < 0x50 ∧ n = .word ∧ off % 4 = 0)
    ∨ (off % n.bytes = 0
        ∧ ((0x100 ≤ off ∧ off + n.bytes ≤ 0x200) ∨ (0x200 ≤ off ∧ off + n.bytes ≤ 0x240)
            ∨ (0x10000 ≤ off ∧ off + n.bytes ≤ 0x10000 + nIn)))

/-- An event that leaves a run whole: no reset, and every access one the port takes. -/
def Event.Plain (nIn : Nat) : Event → Prop
  | .delay => True
  | .engine => True
  | .write off n v => PortTakes nIn off.toNat n ∧ ¬(off = 0x004 ∧ v.getLsbD 1 = true)
  | .read off n => PortTakes nIn off.toNat n
  | .resetOn => False
  | .resetOff => True

end Sys2Proof.Machine
end

