-- ==== Sys2Proof/Certificates/Slice0/Obligations.lean ====
section
/-! DEFINITION. The statements for the provers, from the spec's numbered rules. Each docstring names the rule a
statement formalises; OBLIGATIONS.json lists them. -/

open Sys2Proof Sys2Proof.Machine

/-! ### Encoding -/

/-- R80 to R88: decoding the word, or the bytes, of any well-formed command gives the command back. -/
def Obligations.DecodeOfEncode : Prop :=
  ∀ i : Instr, i.wf = true → decode (encode i) = .ok i ∧ decodeBytes (encodeBytes i) = .ok i

/-- R85, R81: a word that decodes to a command is that command's own word, the command is well formed, and a byte
sequence that decodes has four bytes. -/
def Obligations.EncodeOfDecode : Prop :=
  (∀ (w : Word) (i : Instr), decode w = .ok i → i.wf = true ∧ encode i = w)
    ∧ ∀ (bs : List Byte) (i : Instr), decodeBytes bs = .ok i → bs.length = 4 ∧ encodeBytes i = bs

/-- R84: each row's command is selected exactly by its match and mask. -/
def Obligations.CommandSelectedByMatchAndMask : Prop :=
  ∀ cmd : Word,
    ((∃ amt, decode cmd = .ok (.rotl32 amt)) ↔ cmd &&& 0xFFFF00FF = 0x00000001)
      ∧ ((∃ amt, decode cmd = .ok (.rotl64 amt)) ↔ cmd &&& 0xFFFF00FF = 0x00000002)
      ∧ (decode cmd = .ok .fmix32 ↔ cmd &&& 0xFFFFFFFF = 0x00000003)
      ∧ (decode cmd = .ok .fmix64 ↔ cmd &&& 0xFFFFFFFF = 0x00000004)
      ∧ (decode cmd = .ok .hash32 ↔ cmd &&& 0xFFFFFFFF = 0x00000010)
      ∧ (decode cmd = .ok .hash128 ↔ cmd &&& 0xFFFFFFFF = 0x00000011)
      ∧ (decode cmd = .ok .hash128s ↔ cmd &&& 0xFFFFFFFF = 0x00010011)
      ∧ (decode cmd = .ok .encode ↔ cmd &&& 0xFFFFFFFF = 0x00000020)
      ∧ (decode cmd = .ok .decode ↔ cmd &&& 0xFFFFFFFF = 0x00000021)

/-- R82: the rotate amount is the zero-extended IMM8; every amount 0..255 is a legal encoding; ROTL32 takes 0..31
and ROTL64 0..63, and a larger amount raises ROT_RANGE when executed. -/
def Obligations.RotateAmountIsImm8 : Prop :=
  (∀ (cmd : Word) (amt : Nat),
      decode cmd = .ok (.rotl32 amt) ∨ decode cmd = .ok (.rotl64 amt) → amt = cmd.toNat / 2 ^ 8 % 2 ^ 8)
    ∧ (∀ n, n ≤ 255 →
        decode (BitVec.ofNat 32 (0x01 + n * 2 ^ 8)) = .ok (.rotl32 n)
          ∧ decode (BitVec.ofNat 32 (0x02 + n * 2 ^ 8)) = .ok (.rotl64 n))
    ∧ ∀ (n : Nat) (s : State),
        (n < 32 → ∃ r, exec (.rotl32 n) s = .next (s.succeeded r 0))
          ∧ (n < 64 → ∃ r, exec (.rotl64 n) s = .next (s.succeeded r 0))
          ∧ (32 ≤ n → n ≤ 255 → exec (.rotl32 n) s = .next (s.failed .rotRange))
          ∧ (64 ≤ n → n ≤ 255 → exec (.rotl64 n) s = .next (s.failed .rotRange))

/-- R88: the word each syntax form assembles to; `#n` outside 0..255 is rejected, a raw word is taken as it
is, and the amounts from the word width up raise ROT_RANGE at run time. -/
def Obligations.AssemblerWords : Prop :=
  (∀ n, n ≤ 255 →
      (CommandText.command (.rotl32 n)).assemble = some (0x00000001#32 ||| (BitVec.ofNat 32 n <<< 8))
        ∧ (CommandText.command (.rotl64 n)).assemble = some (0x00000002#32 ||| (BitVec.ofNat 32 n <<< 8)))
    ∧ (∀ n, n > 255 →
        (CommandText.command (.rotl32 n)).assemble = none ∧ (CommandText.command (.rotl64 n)).assemble = none)
    ∧ (CommandText.command .fmix32).assemble = some 0x00000003
    ∧ (CommandText.command .fmix64).assemble = some 0x00000004
    ∧ (CommandText.command .hash32).assemble = some 0x00000010
    ∧ (CommandText.command .hash128).assemble = some 0x00000011
    ∧ (CommandText.command .hash128s).assemble = some 0x00010011
    ∧ (CommandText.command .encode).assemble = some 0x00000020
    ∧ (CommandText.command .decode).assemble = some 0x00000021
    ∧ (∀ w, (CommandText.raw w).assemble = some w)
    ∧ ∀ (n : Nat) (s : State),
        (32 ≤ n → n ≤ 255 → exec (.rotl32 n) s = .next (s.failed .rotRange))
          ∧ (64 ≤ n → n ≤ 255 → exec (.rotl64 n) s = .next (s.failed .rotRange))

/-- R86: which words are illegal, by their fields; an illegal word written to CMD of an idle block is stored and
issued, and the engine's step then reports ILLEGAL_CMD and writes nothing else. -/
def Obligations.IllegalWordsStoredAndReported : Prop :=
  ∀ w : Word,
    ((∀ i, decode w ≠ .ok i) ↔
      (w.toNat % 2 ^ 8 ∉ [0x01, 0x02, 0x03, 0x04, 0x10, 0x11, 0x20, 0x21]
        ∨ w.toNat / 2 ^ 17 ≠ 0
        ∨ (w.toNat / 2 ^ 8 % 2 ^ 8 ≠ 0 ∧ w.toNat % 2 ^ 8 ≠ 0x01 ∧ w.toNat % 2 ^ 8 ≠ 0x02)
        ∨ (w.toNat / 2 ^ 16 % 2 = 1 ∧ w.toNat % 2 ^ 8 ≠ 0x11)))
      ∧ ∀ s : State, (∀ i, decode w ≠ .ok i) → s.status.busy = false →
          ∃ t, hostWrite 0x00C .word w s = .next t ∧ t.cmd = w ∧ t.status.busy = true
            ∧ engineTurn t = .next (t.failed .illegalCmd)

/-- Words written out bit by bit from the pattern strings of spec/opcode_table.json decode to what they stand
for, and a reserved bit, an unused field or an unassigned OP does not. -/
def Obligations.SampleWordsDecode : Prop :=
  decode 0b00000000000000000001111100000001 = .ok (.rotl32 31)
    ∧ decode 0b00000000000000000011111100000010 = .ok (.rotl64 63)
    ∧ decode 0b00000000000000000000000000000011 = .ok .fmix32
    ∧ decode 0b00000000000000000000000000010000 = .ok .hash32
    ∧ decode 0b00000000000000010000000000010001 = .ok .hash128s
    ∧ decode 0b00000000000000000000000000100001 = .ok .decode
    ∧ decode 0b10000000000000000000000000000011 = .error .reservedBits
    ∧ decode 0b00000000000000010000000000000001 = .error .seedSelect
    ∧ decode 0b00000000000000000000000100010001 = .error .immediate
    ∧ decode 0b00000000000000000000000000000101 = .error .unknownOp

/-! ### The step -/

/-- R201, R85 (with log entries 3 and 5, the model's order of events and its placing of a word): when the order
brings the engine's step, or nothing more comes, a block not in reset with BUSY = 1 performs the command x[CMD]
decodes to, or reports an illegal word; a word placed by the host is issued and performed by the very next step.
While BUSY = 0 the engine has no step: its turn, and a step with nothing more to come, leave the state as it is;
so does the release of a reset that is not asserted, which is the model's choice (log entry 12), and a delay changes
the model's draw number only (log entries 2 and 18). -/
def Obligations.StepRunsDecodedCommand : Prop :=
  (∀ (s : State) (i : Instr) (es : List Event),
      s.rstIn = false → s.status.busy = true → decode s.cmd = .ok i → s.events = .engine :: es →
        step s = exec i { s with events := es })
    ∧ (∀ (s : State) (i : Instr),
        s.rstIn = false → s.status.busy = true → decode s.cmd = .ok i → s.events = [] → step s = exec i s)
    ∧ (∀ (s : State) (i : Instr) (w : Nat),
        w < 2 ^ 32 → decode (BitVec.ofNat 32 w) = .ok i →
          step (s.withFetchWord 32 w) =
            exec i
              { s with
                cmd := BitVec.ofNat 32 w, rstIn := false,
                status :=
                  { busy := true, done := false, err := false, wbusy := s.status.wbusy, errKind := none,
                    errCause := none } })
    ∧ (∀ (s : State) (es : List Event),
        s.rstIn = false → s.status.busy = true → (∀ i, decode s.cmd ≠ .ok i) →
          (s.events = .engine :: es → step s = .next ({ s with events := es }.failed .illegalCmd))
            ∧ (s.events = [] → step s = .next (s.failed .illegalCmd)))
    ∧ (∀ (s : State) (es : List Event), s.rstIn = false → s.status.busy = false →
        (s.events = .engine :: es → step s = .next { s with events := es })
          ∧ (s.events = [] → step s = .next s))
    ∧ ∀ (s : State) (es : List Event), s.rstIn = false →
        (s.events = .delay :: es → step s = .next { s with events := es, draws := s.draws + 1 })
          ∧ (s.events = .resetOff :: es → step s = .next { s with events := es })

/-- R66 (with log entry 3, the model's form of the order): when a host access comes first in the order, the step
is that access and nothing else, so it has the whole of its effect between two engine steps (R58). A write also
moves the model's draw number on, which reads of the results while BUSY = 1 see (log entry 2). -/
def Obligations.StepTakesOneHostAccess : Prop :=
  ∀ (s : State) (es : List Event) (off : BitVec 17) (n : Width) (v : Word),
    s.rstIn = false →
      (s.events = .write off n v :: es →
          step s = hostWrite off n v { s with events := es, draws := s.draws + 1 })
        ∧ (s.events = .read off n :: es → step s = hostRead off n { s with events := es })

/-! ### BitMixer -/

/-- R100 (with R13): what ROTL32 does for every amount, its encoding, and its corner cases. -/
def Obligations.Rotl32Result : Prop :=
  (∀ n, n ≤ 255 → decode (BitVec.ofNat 32 (0x01 + n * 2 ^ 8)) = .ok (.rotl32 n))
    ∧ (∀ (s : State) (amt : Nat), amt < 32 →
        exec (.rotl32 amt) s =
          .next (s.succeeded (((s.opa.extractLsb' 0 32).rotateLeft amt).setWidth 64) 0))
    ∧ (∀ (s : State) (amt : Nat), 32 ≤ amt → exec (.rotl32 amt) s = .next (s.failed .rotRange))
    ∧ (∀ s : State, exec (.rotl32 0) s = .next (s.succeeded ((s.opa.extractLsb' 0 32).setWidth 64) 0))
    ∧ ∀ s : State,
        exec (.rotl32 31) s =
          .next (s.succeeded (((s.opa.extractLsb' 0 32).rotateRight 1).setWidth 64) 0)

/-- R102 (with R13): what ROTL64 does for every amount, its encoding, and its corner cases. -/
def Obligations.Rotl64Result : Prop :=
  (∀ n, n ≤ 255 → decode (BitVec.ofNat 32 (0x02 + n * 2 ^ 8)) = .ok (.rotl64 n))
    ∧ (∀ (s : State) (amt : Nat), amt < 64 →
        exec (.rotl64 amt) s = .next (s.succeeded (s.opa.rotateLeft amt) 0))
    ∧ (∀ (s : State) (amt : Nat), 64 ≤ amt → exec (.rotl64 amt) s = .next (s.failed .rotRange))
    ∧ (∀ s : State, exec (.rotl64 0) s = .next (s.succeeded s.opa 0))
    ∧ (∀ s : State,
        exec (.rotl64 32) s = .next (s.succeeded (s.opa.extractLsb' 0 32 ++ s.opa.extractLsb' 32 32) 0))
    ∧ ∀ s : State, exec (.rotl64 63) s = .next (s.succeeded (s.opa.rotateRight 1) 0)

/-- R104, R107: FMIX32 completes with fmix32 of OPA[31:0], in natural numbers modulo 2^32; fmix32(0) = 0. -/
def Obligations.Fmix32Result : Prop :=
  decode 0x00000003 = .ok .fmix32
    ∧ (∀ s : State,
        exec .fmix32 s = .next (s.succeeded (BitVec.ofNat 64 (Reference.fmix32 (s.opa.toNat % 2 ^ 32))) 0))
    ∧ (∀ s : State, s.opa.toNat % 2 ^ 32 = 0 → exec .fmix32 s = .next (s.succeeded 0 0))
    ∧ ∀ s : State, s.opa.toNat % 2 ^ 32 = 1 → exec .fmix32 s = .next (s.succeeded 0x514e28b7 0)

/-- R106, R107: FMIX64 completes with fmix64 of OPA, in natural numbers modulo 2^64; fmix64(0) = 0. The function
is a bijection, which R106 marks as the spec's own inference (derived from R106 and R10). -/
def Obligations.Fmix64Result : Prop :=
  decode 0x00000004 = .ok .fmix64
    ∧ (∀ s : State, exec .fmix64 s = .next (s.succeeded (BitVec.ofNat 64 (Reference.fmix64 s.opa.toNat)) 0))
    ∧ (∀ s : State, s.opa = 0 → exec .fmix64 s = .next (s.succeeded 0 0))
    ∧ (∀ s : State, s.opa = 1 → exec .fmix64 s = .next (s.succeeded 0xb456bcfc34c2cb2c 0))
    ∧ Function.Bijective fmix64

/-- R105: fmix32 is a bijection, so FMIX32 on operands that differ in OPA[31:0] leaves different results. -/
def Obligations.Fmix32Bijective : Prop :=
  Function.Bijective fmix32
    ∧ ∀ s t : State, s.opa.setWidth 32 ≠ t.opa.setWidth 32 →
        ∃ s' t', exec .fmix32 s = .next s' ∧ exec .fmix32 t = .next t' ∧ s'.res0 ≠ t'.res0

/-! ### The hash commands -/

/-- R120 to R125: a HASH32 whose slice lies inside INBUF completes with MurmurHash3 x86_32 of the slice's bytes
and SEED, for every length, offset and seed; any other slice raises BUF_RANGE. -/
def Obligations.Hash32IsMurmur32 : Prop :=
  decode 0x00000010 = .ok .hash32
    ∧ (∀ s : State, s.offset.toNat + s.count.toNat ≤ s.nIn →
        exec .hash32 s =
          .next
            (s.succeeded
              (BitVec.ofNat 64
                (Reference.hash32 (bytesFrom s (0x10000 + s.offset.toNat) s.count.toNat) s.seed.toNat))
              0))
    ∧ ∀ s : State, s.offset.toNat + s.count.toNat > s.nIn → exec .hash32 s = .next (s.failed .bufRange)

/-- R140 to R147: a HASH128 whose slice lies inside INBUF completes with MurmurHash3 x64_128 of the slice's
bytes from seed zero, h1 in RES0 and h2 in RES1; any other slice raises BUF_RANGE. The constants of the tail
passes are R145's general knowledge (G1 of spec/93): PRESUMED, log entry 13. -/
def Obligations.Hash128IsMurmur128 : Prop :=
  decode 0x00000011 = .ok .hash128
    ∧ (∀ s : State, s.offset.toNat + s.count.toNat ≤ s.nIn →
        exec .hash128 s =
          .next
            (let h := Reference.hash128 (bytesFrom s (0x10000 + s.offset.toNat) s.count.toNat) 0
             s.succeeded (BitVec.ofNat 64 h.1) (BitVec.ofNat 64 h.2)))
    ∧ ∀ s : State, s.offset.toNat + s.count.toNat > s.nIn → exec .hash128 s = .next (s.failed .bufRange)

/-- R150, R151: HASH128S is the same from h1 = h2 = zext_64(SEED); with SEED = 0 it is HASH128, which R150 marks
as the spec's own inference. The placing of the seed (R151, G2 of spec/93) and the constants of the tail passes
(R145, G1) are general knowledge: PRESUMED, log entry 13. -/
def Obligations.Hash128sIsSeededMurmur128 : Prop :=
  decode 0x00010011 = .ok .hash128s
    ∧ (∀ s : State, s.offset.toNat + s.count.toNat ≤ s.nIn →
        exec .hash128s s =
          .next
            (let h := Reference.hash128 (bytesFrom s (0x10000 + s.offset.toNat) s.count.toNat) s.seed.toNat
             s.succeeded (BitVec.ofNat 64 h.1) (BitVec.ofNat 64 h.2)))
    ∧ (∀ s : State, s.offset.toNat + s.count.toNat > s.nIn → exec .hash128s s = .next (s.failed .bufRange))
    ∧ ∀ s : State, s.seed = 0 → exec .hash128s s = exec .hash128 s

/-- R125, R140, R150: a slice that does not lie inside INBUF, its end computed without wrap-around, raises
BUF_RANGE in all three hash commands whatever the bytes are, an empty slice too; one that does never raises. -/
def Obligations.HashRangeCheck : Prop :=
  ∀ (i : Instr) (s : State), i = .hash32 ∨ i = .hash128 ∨ i = .hash128s →
    (s.offset.toNat + s.count.toNat > s.nIn → exec i s = .next (s.failed .bufRange))
      ∧ (s.offset.toNat + s.count.toNat ≤ s.nIn → ∃ r0 r1, exec i s = .next (s.succeeded r0 r1))

/-- R127 for HASH32, R149 (the spec's own inference), R60 and R64 for HASH128 and HASH128S: a hash depends only on
the bytes of its slice, their count and the seed it reads: two blocks whose slices hold the same bytes, at
whatever offsets, get the same results. -/
def Obligations.HashDependsOnSliceOnly : Prop :=
  ∀ (i : Instr) (s t : State), i = .hash32 ∨ i = .hash128 ∨ i = .hash128s →
    s.offset.toNat + s.count.toNat ≤ s.nIn → t.offset.toNat + t.count.toNat ≤ t.nIn →
    s.count = t.count → (i ≠ .hash128 → s.seed = t.seed) →
    (∀ j, j < s.count.toNat →
      readByte s (0x10000 + s.offset.toNat + j) = readByte t (0x10000 + t.offset.toNat + j)) →
    ∃ r0 r1, exec i s = .next (s.succeeded r0 r1) ∧ exec i t = .next (t.succeeded r0 r1)

/-- R124, R140: the empty input still takes part in finalization: HASH32 of it is fmix32(SEED) and HASH128 of it
is (0, 0), wherever the empty slice stands. -/
def Obligations.EmptyInputHashes : Prop :=
  ∀ s : State, s.count = 0 → s.offset.toNat ≤ s.nIn →
    exec .hash32 s = .next (s.succeeded (BitVec.ofNat 64 (Reference.fmix32 s.seed.toNat)) 0)
      ∧ exec .hash128 s = .next (s.succeeded 0 0)

/-! ### Short codes -/

/-- R171, R173, R176: for a valid alphabet (and OPA = 0 where its length is 1) ENCODE completes: CODEBUF[0..L-1]
holds the symbols of OPA's digits in the radix, most significant first, the one symbol A[0] for zero; CODE_LEN = L;
every other byte and register is unchanged. -/
def Obligations.EncodeResult : Prop :=
  ∀ s : State, ValidAlphabet s → (s.alen.toNat = 1 → s.opa = 0) →
    ∃ (ds : List Nat) (t : State),
      ds = (if s.opa = 0 then [0] else (Nat.digits s.alen.toNat s.opa.toNat).reverse)
        ∧ 1 ≤ ds.length ∧ ds.length ≤ 64
        ∧ exec .encode s = .next t
        ∧ t = { s with
            mem := t.mem, codeLen := BitVec.ofNat 7 ds.length,
            status := { s.status with busy := false, done := true } }
        ∧ (∀ j (h : j < ds.length),
            ds[j] < s.alen.toNat ∧ readByte t (0x200 + j) = readByte s (0x100 + ds[j]))
        ∧ ∀ off, off < 0x200 ∨ 0x200 + ds.length ≤ off → readByte t off = readByte s off

/-- R172, R174, R205(4): the errors of ENCODE and their order: the length, then a repeated symbol, then radix
one with a value other than zero. -/
def Obligations.EncodeErrors : Prop :=
  ∀ s : State,
    ((s.alen.toNat = 0 ∨ 256 < s.alen.toNat) → exec .encode s = .next (s.failed .alphaLen))
      ∧ (1 ≤ s.alen.toNat → s.alen.toNat ≤ 256 →
          (∃ i j, i < j ∧ j < s.alen.toNat ∧ readByte s (0x100 + i) = readByte s (0x100 + j)) →
          exec .encode s = .next (s.failed .alphaDup))
      ∧ (s.alen.toNat = 1 → s.opa ≠ 0 → exec .encode s = .next (s.failed .radix1))

/-- R177: for a radix of at least 2 and a nonzero value the first symbol of the code is never A[0]. -/
def Obligations.EncodeCanonical : Prop :=
  ∀ s : State, ValidAlphabet s → 2 ≤ s.alen.toNat → s.opa ≠ 0 →
    ∃ t, exec .encode s = .next t ∧ readByte t 0x200 ≠ readByte s 0x100

/-- R178: the length of the code: 1 for zero, else floor(log_N(v)) + 1, at most 64, and 64 only in radix 2 from
2^63 on. -/
def Obligations.EncodeLength : Prop :=
  ∀ s : State, ValidAlphabet s → 2 ≤ s.alen.toNat →
    ∃ t, exec .encode s = .next t
      ∧ t.codeLen.toNat = (if s.opa = 0 then 1 else Nat.log s.alen.toNat s.opa.toNat + 1)
      ∧ t.codeLen.toNat ≤ 64
      ∧ (t.codeLen.toNat = 64 → s.alen.toNat = 2 ∧ 2 ^ 63 ≤ s.opa.toNat)

/-- R180, R181, R182: for a valid alphabet, a code of 1 to 64 symbols that all stand in the alphabet, and a
positional value below 2^64, DECODE completes with that value. -/
def Obligations.DecodeResult : Prop :=
  ∀ (s : State) (ds : List Nat), ValidAlphabet s →
    ds.length = s.codeLen.toNat → 1 ≤ s.codeLen.toNat → s.codeLen.toNat ≤ 64 → PlacesOf s ds →
    positional s.alen.toNat ds ≤ 2 ^ 64 - 1 →
      exec .decode s = .next (s.succeeded (BitVec.ofNat 64 (positional s.alen.toNat ds)) 0)

/-- R172, R180, R205(5): the errors of DECODE and their order: the alphabet's length, a repeated symbol, the
code's length, and then at the first offending position j (`ds` the places of the symbols before it) a symbol
outside the alphabet before an overflow. -/
def Obligations.DecodeErrors : Prop :=
  ∀ s : State,
    ((s.alen.toNat = 0 ∨ 256 < s.alen.toNat) → exec .decode s = .next (s.failed .alphaLen))
      ∧ (1 ≤ s.alen.toNat → s.alen.toNat ≤ 256 →
          (∃ i j, i < j ∧ j < s.alen.toNat ∧ readByte s (0x100 + i) = readByte s (0x100 + j)) →
          exec .decode s = .next (s.failed .alphaDup))
      ∧ (ValidAlphabet s → (s.codeLen.toNat = 0 ∨ 64 < s.codeLen.toNat) →
          exec .decode s = .next (s.failed .codeLen))
      ∧ ∀ ds : List Nat, ValidAlphabet s → s.codeLen.toNat ≤ 64 → ds.length < s.codeLen.toNat →
          PlacesOf s ds → positional s.alen.toNat ds ≤ 2 ^ 64 - 1 →
            ((∀ d, d < s.alen.toNat → readByte s (0x100 + d) ≠ readByte s (0x200 + ds.length)) →
                exec .decode s = .next (s.failed .codeSym))
              ∧ ∀ d, d < s.alen.toNat → readByte s (0x100 + d) = readByte s (0x200 + ds.length) →
                  positional s.alen.toNat (ds ++ [d]) > 2 ^ 64 - 1 →
                    exec .decode s = .next (s.failed .decodeOvf)

/-- R183, R244: for every u64 and every valid alphabet of at least 2 symbols, ENCODE completes, and DECODE in any
block that has the CODEBUF bytes and the CODE_LEN that ENCODE wrote, with the same ALPHA and ALEN, completes with
RES0 = the value and RES1 = 0. -/
def Obligations.EncodeThenDecodeRoundTrip : Prop :=
  ∀ s : State, ValidAlphabet s → 2 ≤ s.alen.toNat →
    ∃ t, exec .encode s = .next t
      ∧ ∀ u : State, u.alen = s.alen → u.codeLen = t.codeLen →
          (∀ j, j < s.alen.toNat → readByte u (0x100 + j) = readByte s (0x100 + j)) →
          (∀ j, j < t.codeLen.toNat → readByte u (0x200 + j) = readByte t (0x200 + j)) →
            exec .decode u = .next (u.succeeded s.opa 0)

/-- R184: DECODE accepts a code with A[0] put in front and gives the same value, so it is not injective. -/
def Obligations.DecodeAcceptsLeadingFirstSymbol : Prop :=
  ∀ (s t : State) (v : DWord), ValidAlphabet s → 1 ≤ s.codeLen.toNat → s.codeLen.toNat ≤ 63 →
    exec .decode s = .next (s.succeeded v 0) → s.status.err = false →
    t.alen = s.alen → t.codeLen.toNat = s.codeLen.toNat + 1 →
    (∀ j, j < s.alen.toNat → readByte t (0x100 + j) = readByte s (0x100 + j)) →
    readByte t 0x200 = readByte s 0x100 →
    (∀ j, j < s.codeLen.toNat → readByte t (0x201 + j) = readByte s (0x200 + j)) →
      exec .decode t = .next (t.succeeded v 0)

/-! ### Completion, errors and frames -/

/-- R201, R204, R219: from BUSY = 1 with no report standing, the completion step always answers a next state: the
command's results with BUSY = 0 and DONE = 1 and no report, or else exactly the error report on the state before
it. -/
def Obligations.CompletionPreciseAndTotal : Prop :=
  ∀ s : State, s.status.busy = true → s.status.err = false →
    ∃ t, engineTurn s = .next t ∧ t.status.busy = false ∧ t.status.done = true
      ∧ (t.status.err = true → ∃ c, t = s.failed c)
      ∧ (t.status.err = false → t.status = { s.status with busy := false, done := true })

/-- R203: which causes each command can raise; FMIX32 and FMIX64 raise none. -/
def Obligations.CausesByCommand : Prop :=
  ∀ (i : Instr) (s t : State) (c : Cause), s.status.err = false → exec i s = .next t →
    t.status.err = true → t.status.errCause = some c →
      match i with
      | .rotl32 _ => c = .rotRange
      | .rotl64 _ => c = .rotRange
      | .fmix32 => False
      | .fmix64 => False
      | .hash32 => c = .bufRange
      | .hash128 => c = .bufRange
      | .hash128s => c = .bufRange
      | .encode => c = .alphaLen ∨ c = .alphaDup ∨ c = .radix1
      | .decode => c = .alphaLen ∨ c = .alphaDup ∨ c = .codeLen ∨ c = .codeSym ∨ c = .decodeOvf

/-- R108: every command's completion clears BUSY and sets DONE; a command that raised also sets ERR, ERRKIND and
ERRCAUSE; no other status field changes; no command changes CTRL, CMD, SEED, OFFSET, COUNT, ALEN, OPA, ALPHA,
INBUF, or anything outside the block. -/
def Obligations.CommandsKeepOperandsAndControl : Prop :=
  ∀ (i : Instr) (s : State), ∃ t, exec i s = .next t
    ∧ (t.status = { s.status with busy := false, done := true }
        ∨ ∃ c,
            t.status =
              { busy := false, done := true, err := true, wbusy := s.status.wbusy,
                errKind := some .invalidArgument, errCause := some c })
    ∧ t.ie = s.ie ∧ t.cmd = s.cmd ∧ t.seed = s.seed ∧ t.offset = s.offset ∧ t.count = s.count
    ∧ t.alen = s.alen ∧ t.opa = s.opa ∧ t.nIn = s.nIn ∧ t.rstIn = s.rstIn ∧ t.events = s.events
    ∧ t.reads = s.reads ∧ t.draws = s.draws ∧ t.epoch = s.epoch
    ∧ ∀ off, off < 0x200 ∨ 0x240 ≤ off → readByte t off = readByte s off

/-- R43, R60: the frame of the commands that write RES0 and RES1: they store to no buffer and keep CODE_LEN and
every register but RES0, RES1 and STATUS; in STATUS they keep WBUSY, and ERR, ERRKIND and ERRCAUSE unless they
raise; the single-result commands leave RES1 = 0 when they succeed. -/
def Obligations.ResultCommandsFrame : Prop :=
  ∀ (i : Instr) (s t : State), i ≠ .encode → exec i s = .next t →
    (∃ r0 r1, t = s.succeeded r0 r1 ∧ (i ≠ .hash128 → i ≠ .hash128s → r1 = 0)) ∨ (∃ c, t = s.failed c)

/-- R43, R176: the frame of ENCODE. When it does not raise, it stores L = CODE_LEN bytes from CODEBUF[0], L at
most 64, and keeps every other byte, RES0, RES1 and every register but CODE_LEN and STATUS. -/
def Obligations.EncodeFrame : Prop :=
  ∀ s t : State, exec .encode s = .next t →
    (∃ c, t = s.failed c)
      ∨ (t = { s with
            mem := t.mem, codeLen := t.codeLen, status := { s.status with busy := false, done := true } }
          ∧ 1 ≤ t.codeLen.toNat ∧ t.codeLen.toNat ≤ 64
          ∧ ∀ off, off < 0x200 ∨ 0x200 + t.codeLen.toNat ≤ off → readByte t off = readByte s off)

/-- R17, R42: purity: what a command leaves is a function of the operand state and nothing else. Two blocks with
the same operand state raise the same cause or both succeed; then the results are the same, and CODEBUF and
CODE_LEN too. -/
def Obligations.CommandsArePure : Prop :=
  ∀ (i : Instr) (s t : State), SameOperands s t → s.status.err = false → t.status.err = false →
    ∃ s' t', exec i s = .next s' ∧ exec i t = .next t'
      ∧ s'.status.err = t'.status.err ∧ (s'.status.err = true → s'.status.errCause = t'.status.errCause)
      ∧ s'.codeLen = t'.codeLen ∧ SameBytes s' t'
      ∧ (s'.status.err = false → i ≠ .encode → s'.res0 = t'.res0 ∧ s'.res1 = t'.res1)

/-! ### The host port -/

/-- R52, R53, R55, R56: the port answers with a bus error exactly where the offset and width are not ones it
takes, for writes and reads alike; every other access completes. -/
def Obligations.BusErrorsExactly : Prop :=
  ∀ (s : State) (off : BitVec 17) (n : Width) (v : Word),
    (PortTakes s.nIn off.toNat n →
        (∃ t, hostWrite off n v s = .next t) ∧ (∃ t, hostRead off n s = .next t))
      ∧ (¬ PortTakes s.nIn off.toNat n →
          hostWrite off n v s = .fault (.busError off n) ∧ hostRead off n s = .fault (.busError off n))

/-- R51, R53: a taken buffer write while BUSY = 0 stores byte j of the value at offset off + j and nothing else;
a taken buffer read while BUSY = 0 returns byte off + j in bits 8j+7:8j and 0 above. -/
def Obligations.BufferLanesLittleEndian : Prop :=
  ∀ (s : State) (off : BitVec 17) (n : Width) (v : Word),
    PortTakes s.nIn off.toNat n → 0x100 ≤ off.toNat → s.status.busy = false →
      (∃ t, hostWrite off n v s = .next t ∧ t = { s with mem := t.mem }
          ∧ (∀ j, j < n.bytes → readByte t (off.toNat + j) = v.extractLsb' (8 * j) 8)
          ∧ ∀ a, a < off.toNat ∨ off.toNat + n.bytes ≤ a → readByte t a = readByte s a)
        ∧ ∃ d : Word, hostRead off n s = .next { s with reads := ⟨off, n, d⟩ :: s.reads }
          ∧ ∀ j, j < 4 →
              d.extractLsb' (8 * j) 8 = if j < n.bytes then readByte s (off.toNat + j) else 0

/-- R45, R54, R21, R24, R26 to R35: a write to an input register while BUSY = 0 stores the bits the register
holds and ignores the rest; a write to CTRL without SRST stores IE; a write to a read-only register is ignored
without a bus error; and a read returns what the register holds with 0 in the reserved bits. -/
def Obligations.InputRegistersStoreTheirBits : Prop :=
  ∀ (s : State) (v : Word), s.status.busy = false →
    hostWrite 0x010 .word v s = .next { s with seed := v }
      ∧ hostWrite 0x014 .word v s = .next { s with offset := v }
      ∧ hostWrite 0x018 .word v s = .next { s with count := v }
      ∧ hostWrite 0x01C .word v s = .next { s with alen := BitVec.ofNat 9 (v.toNat % 2 ^ 9) }
      ∧ hostWrite 0x020 .word v s =
          .next { s with opa := BitVec.ofNat 64 (s.opa.toNat / 2 ^ 32 * 2 ^ 32 + v.toNat) }
      ∧ hostWrite 0x024 .word v s =
          .next { s with opa := BitVec.ofNat 64 (v.toNat * 2 ^ 32 + s.opa.toNat % 2 ^ 32) }
      ∧ hostWrite 0x038 .word v s = .next { s with codeLen := BitVec.ofNat 7 (v.toNat % 2 ^ 7) }
      ∧ (v.getLsbD 1 = false → hostWrite 0x004 .word v s = .next { s with ie := v.getLsbD 0 })
      ∧ (∀ off ∈ [(0x000 : BitVec 17), 0x028, 0x02C, 0x030, 0x034, 0x03C, 0x040, 0x044, 0x048, 0x04C],
          hostWrite off .word v s = .next s)
      ∧ ∀ (off : BitVec 17) (d : Word),
          (off, d) ∈
            [((0x004 : BitVec 17), BitVec.ofNat 32 s.ie.toNat), (0x00C, s.cmd), (0x010, s.seed),
              (0x014, s.offset), (0x018, s.count), (0x01C, BitVec.ofNat 32 s.alen.toNat), (0x020, BitVec.ofNat 32 (s.opa.toNat % 2 ^ 32)),
              (0x024, BitVec.ofNat 32 (s.opa.toNat / 2 ^ 32)),
              (0x028, BitVec.ofNat 32 (s.res0.toNat % 2 ^ 32)),
              (0x02C, BitVec.ofNat 32 (s.res0.toNat / 2 ^ 32)),
              (0x030, BitVec.ofNat 32 (s.res1.toNat % 2 ^ 32)),
              (0x034, BitVec.ofNat 32 (s.res1.toNat / 2 ^ 32)),
              (0x038, BitVec.ofNat 32 s.codeLen.toNat), (0x03C, BitVec.ofNat 32 s.nIn)] →
            hostRead off .word s = .next { s with reads := ⟨off, .word, d⟩ :: s.reads }

/-- R22: ID reads the constant 0x4D483301; a write to it is ignored and raises no bus error, BUSY or not. -/
def Obligations.IdConstant : Prop :=
  ∀ (s : State) (v : Word),
    hostWrite 0x000 .word v s = .next s
      ∧ hostRead 0x000 .word s = .next { s with reads := ⟨0x000, .word, 0x4D483301⟩ :: s.reads }

/-- R35: byte j of DIGESTk is digest byte 4k + j: RES0 and then RES1, each most significant byte first. -/
def Obligations.DigestBigEndian : Prop :=
  ∀ (s : State) (k j : Nat), s.status.busy = false → k < 4 → j < 4 →
    ∃ d : Word,
      hostRead (BitVec.ofNat 17 (0x040 + 4 * k)) .word s =
          .next { s with reads := ⟨BitVec.ofNat 17 (0x040 + 4 * k), .word, d⟩ :: s.reads }
        ∧ d.toNat / 2 ^ (8 * j) % 2 ^ 8 =
            (s.res0.toNat * 2 ^ 64 + s.res1.toNat) / 2 ^ (8 * (15 - (4 * k + j))) % 2 ^ 8

/-- R200: a taken write to CMD while BUSY = 0 stores the word, clears DONE and the report, sets BUSY, keeps
WBUSY, and deasserts irq; a write to CMD while BUSY = 1 is dropped, which sets WBUSY. -/
def Obligations.IssueOnCommandWrite : Prop :=
  ∀ (s : State) (w : Word),
    (s.status.busy = false →
      ∃ t, hostWrite 0x00C .word w s = .next t
        ∧ t = { s with
            cmd := w,
            status :=
              { busy := true, done := false, err := false, wbusy := s.status.wbusy, errKind := none,
                errCause := none } }
        ∧ t.irq = false)
      ∧ (s.status.busy = true →
          hostWrite 0x00C .word w s = .next { s with status := { s.status with wbusy := true } })

/-- R240: while BUSY = 1 a taken write to CMD, an input register or a buffer changes nothing but WBUSY, which it
sets, and gets no bus error; writes to CTRL and STATUS are taken as they are while BUSY = 0 (R24, R231, R23), and
read-only registers ignore theirs. -/
def Obligations.WritesWhileBusyDropped : Prop :=
  ∀ (s : State) (off : BitVec 17) (n : Width) (v : Word), s.status.busy = true →
    PortTakes s.nIn off.toNat n →
      (off ∈ [0x00C, 0x010, 0x014, 0x018, 0x01C, 0x020, 0x024, 0x038] ∨ 0x100 ≤ off.toNat →
          hostWrite off n v s = .next { s with status := { s.status with wbusy := true } })
        ∧ (off ∈ [0x000, 0x028, 0x02C, 0x030, 0x034, 0x03C, 0x040, 0x044, 0x048, 0x04C] →
            hostWrite off n v s = .next s)
        ∧ (off = 0x004 → v.getLsbD 1 = false → hostWrite off n v s = .next { s with ie := v.getLsbD 0 })
        ∧ (off = 0x004 → v.getLsbD 1 = true → ∃ t, hostWrite off n v s = .next t ∧ t.AtReset ∧ t.nIn = s.nIn)
        ∧ (off = 0x008 →
            hostWrite off n v s =
              .next
                { s with
                  status :=
                    { busy := true
                      done := s.status.done && !v.getLsbD 1
                      err := s.status.err && !v.getLsbD 2
                      wbusy := s.status.wbusy && !v.getLsbD 3
                      errKind := if v.getLsbD 2 then none else s.status.errKind
                      errCause := if v.getLsbD 2 then none else s.status.errCause } })

/-- R57, R241: no read changes the block. A taken read only adds to what the host has been given (the model's own
record, log entry 4); while BUSY = 1 the reads of ID, CTRL, CMD, SEED, OFFSET, COUNT, ALEN, OPA, INBUF_SIZE, ALPHA
and INBUF return what the same read would return in the idle block. -/
def Obligations.ReadsChangeNothing : Prop :=
  ∀ (s : State) (off : BitVec 17) (n : Width), PortTakes s.nIn off.toNat n →
    (∃ d, hostRead off n s = .next { s with reads := ⟨off, n, d⟩ :: s.reads })
      ∧ (off ∈ [0x000, 0x004, 0x00C, 0x010, 0x014, 0x018, 0x01C, 0x020, 0x024, 0x03C]
            ∨ (0x100 ≤ off.toNat ∧ off.toNat < 0x200) ∨ 0x10000 ≤ off.toNat →
          ∃ d, hostRead off n s = .next { s with reads := ⟨off, n, d⟩ :: s.reads }
            ∧ hostRead off n { s with status := { s.status with busy := false } } =
                .next
                  { s with
                    status := { s.status with busy := false }, reads := ⟨off, n, d⟩ :: s.reads })

/-- R241 (with log entry 2, the model's form of the draw): while BUSY = 1 a read of RES0, RES1, DIGEST, CODE_LEN or
CODEBUF completes with a draw that tells nothing of what the block holds: two blocks at the same draw return the same
data to the same read, whatever their results are. A draw of CODE_LEN has its reserved bits 0 (R44, R45). -/
def Obligations.BusyResultReadsAreDraws : Prop :=
  ∀ (off : BitVec 17) (n : Width) (s t : State), s.status.busy = true → t.status.busy = true →
    PortTakes s.nIn off.toNat n → PortTakes t.nIn off.toNat n → s.draws = t.draws →
    (off ∈ [0x028, 0x02C, 0x030, 0x034, 0x038, 0x040, 0x044, 0x048, 0x04C]
      ∨ (0x200 ≤ off.toNat ∧ off.toNat < 0x240)) →
      ∃ d, hostRead off n s = .next { s with reads := ⟨off, n, d⟩ :: s.reads }
        ∧ hostRead off n t = .next { t with reads := ⟨off, n, d⟩ :: t.reads }
        ∧ (off = 0x038 → d.toNat < 2 ^ 7) ∧ d.toNat < 2 ^ (8 * n.bytes)

/-- R23, R208: a write to STATUS clears DONE, ERR and WBUSY where it has a 1, clearing ERR clears ERRKIND and
ERRCAUSE too, and nothing else changes, BUSY or not; a read gives the fields in their places. -/
def Obligations.StatusWriteOneToClear : Prop :=
  ∀ (s : State) (v : Word),
    hostWrite 0x008 .word v s =
        .next
          { s with
            status :=
              { busy := s.status.busy
                done := if v.toNat / 2 % 2 = 1 then false else s.status.done
                err := if v.toNat / 4 % 2 = 1 then false else s.status.err
                wbusy := if v.toNat / 8 % 2 = 1 then false else s.status.wbusy
                errKind := if v.toNat / 4 % 2 = 1 then none else s.status.errKind
                errCause := if v.toNat / 4 % 2 = 1 then none else s.status.errCause } }
      ∧ ∃ d : Word, hostRead 0x008 .word s = .next { s with reads := ⟨0x008, .word, d⟩ :: s.reads }
        ∧ d.toNat = s.status.busy.toNat + 2 * s.status.done.toNat + 4 * s.status.err.toNat
            + 8 * s.status.wbusy.toNat + 16 * s.status.kindField.toNat + 256 * s.status.causeField.toNat

/-- R66(b), R242: a STATUS read that returns DONE = 1 is ordered after the completion: the reads that follow it
return the final RES0, RES1, CODE_LEN and CODEBUF bytes, no draw. -/
def Obligations.DoneObservedThenResultsFinal : Prop :=
  ∀ s t : State, s.status.Legal → hostRead 0x008 .word s = .next t →
    (∃ r rs, t.reads = r :: rs ∧ r.data.getLsbD 1 = true) →
      hostRead 0x028 .word t =
          .next { t with reads := ⟨0x028, .word, BitVec.ofNat 32 (s.res0.toNat % 2 ^ 32)⟩ :: t.reads }
        ∧ hostRead 0x02C .word t =
          .next { t with reads := ⟨0x02C, .word, BitVec.ofNat 32 (s.res0.toNat / 2 ^ 32)⟩ :: t.reads }
        ∧ hostRead 0x030 .word t =
          .next { t with reads := ⟨0x030, .word, BitVec.ofNat 32 (s.res1.toNat % 2 ^ 32)⟩ :: t.reads }
        ∧ hostRead 0x034 .word t =
          .next { t with reads := ⟨0x034, .word, BitVec.ofNat 32 (s.res1.toNat / 2 ^ 32)⟩ :: t.reads }
        ∧ hostRead 0x038 .word t =
          .next { t with reads := ⟨0x038, .word, BitVec.ofNat 32 s.codeLen.toNat⟩ :: t.reads }
        ∧ ∀ j, j < 64 →
          hostRead (BitVec.ofNat 17 (0x200 + j)) .byte t =
            .next
              { t with
                reads :=
                  ⟨BitVec.ofNat 17 (0x200 + j), .byte, (readByte s (0x200 + j)).setWidth 32⟩ :: t.reads }

/-- R202: the codes of the kinds and causes, all different and none of them 0. -/
def Obligations.ErrorCodes : Prop :=
  ErrKind.invalidArgument.code = 1 ∧ ErrKind.unsupportedPlatform.code = 2
    ∧ Cause.illegalCmd.code = 0x01 ∧ Cause.rotRange.code = 0x02 ∧ Cause.bufRange.code = 0x03
    ∧ Cause.alphaLen.code = 0x04 ∧ Cause.alphaDup.code = 0x05 ∧ Cause.radix1.code = 0x06
    ∧ Cause.codeLen.code = 0x07 ∧ Cause.codeSym.code = 0x08 ∧ Cause.decodeOvf.code = 0x09

/-- R39, R210, R211: the level of irq: it is low while BUSY = 1 in every legal state, rises in a completion step
when IE = 1, follows IE at a CTRL write, falls with DONE at a STATUS write, and is low after a reset. -/
def Obligations.IrqLevel : Prop :=
  (∀ s : State, s.status.Legal → s.status.busy = true → s.irq = false)
    ∧ (∀ s t : State, s.status.busy = true → engineTurn s = .next t → t.irq = s.ie)
    ∧ (∀ (s : State) (v : Word), v.getLsbD 1 = false →
        ∃ t, hostWrite 0x004 .word v s = .next t ∧ t.irq = (s.status.done && v.getLsbD 0))
    ∧ (∀ (s : State) (v : Word), v.getLsbD 1 = true →
        (∃ t, hostWrite 0x008 .word v s = .next t ∧ t.irq = false)
          ∧ ∃ t, hostWrite 0x004 .word v s = .next t ∧ t.irq = false)
    ∧ State.reset.irq = false

/-! ### Reset -/

/-- R231: a write to CTRL with SRST = 1 resets the block even while BUSY = 1, whatever the other bits are: a
pending command is abandoned, irq is 0, CTRL then reads 0; and SRST is never seen as 1. -/
def Obligations.SoftReset : Prop :=
  (∀ (s : State) (v : Word), v.getLsbD 1 = true →
    ∃ t, hostWrite 0x004 .word v s = .next t ∧ t.AtReset ∧ t.irq = false ∧ t.nIn = s.nIn
      ∧ engineTurn t = .next t
      ∧ hostRead 0x004 .word t = .next { t with reads := ⟨0x004, .word, 0⟩ :: t.reads })
    ∧ ∀ s : State, ∃ d : Word,
        hostRead 0x004 .word s = .next { s with reads := ⟨0x004, .word, d⟩ :: s.reads } ∧ d.getLsbD 1 = false

/-- R230: when the reset input is asserted the block takes its reset values, a pending command with it; while it
is asserted the block stays there and no host access is taken (a refusal, as spec/93 section 1 asks); after the
release it is idle and an issue is taken. ID and INBUF_SIZE keep their values. The refusal is DEDUCED (log entry
10); reset, its release and the steps in it as elements of the order are the model's (log entries 3 and 12). -/
def Obligations.HardwareReset : Prop :=
  ∀ (s : State) (es : List Event),
    (s.events = .resetOn :: es → ∃ t, step s = .next t ∧ t.AtReset ∧ t.rstIn = true ∧ t.nIn = s.nIn
      ∧ t.events = es)
    ∧ (s.rstIn = true → s.events = .engine :: es ∨ s.events = .delay :: es ∨ s.events = [] →
        ∃ t, step s = .next t ∧ t.AtReset ∧ t.rstIn = true ∧ t.nIn = s.nIn)
    ∧ (s.rstIn = true → ∀ (off : BitVec 17) (n : Width) (v : Word),
        (s.events = .write off n v :: es → step s = .refused (.accessDuringReset off n))
          ∧ (s.events = .read off n :: es → step s = .refused (.accessDuringReset off n)))
    ∧ (s.rstIn = true → s.events = .resetOff :: es →
        ∃ t, step s = .next t ∧ t.AtReset ∧ t.rstIn = false ∧ t.nIn = s.nIn ∧ t.irq = false ∧ t.events = es
          ∧ ∀ w, ∃ u, hostWrite 0x00C .word w t = .next u ∧ u.cmd = w ∧ u.status.busy = true)

/-- R21, R40: the reset values of the registers, and that the machine after reset meets the invariant's values. -/
def Obligations.ResetValues : Prop :=
  State.reset.AtReset ∧ State.reset.nIn = 4096 ∧ State.reset.status.toWord = 0

/-! ### Invariants -/

/-- The invariant holds right after reset. -/
def Obligations.ResetMeetsInvariant : Prop := State.reset.Inv

/-- R23, R7, R60, R230 (over the model's order of events, its N_IN in State, its form of the byte store and of
reset: log entries 3, 7, 14 and 12): every step keeps the invariant: STATUS stays legal, the byte store canonical
with buffer bytes only, N_IN legal, and the block at its reset values while reset is asserted. -/
def Obligations.StepKeepsInvariant : Prop :=
  ∀ s t : State, s.Inv → step s = .next t → t.Inv

/-- R34, R44: INBUF_SIZE and ID never change: no step changes N_IN, and ID reads the same in every state. -/
def Obligations.ParameterConstant : Prop :=
  ∀ s t : State, step s = .next t → t.nIn = s.nIn ∧ readReg .id t = readReg .id s

/-- R42: while BUSY = 1 no event but a reset or the engine's own step changes the command or an operand. -/
def Obligations.OperandsHeldWhileBusy : Prop :=
  ∀ (s t : State) (e : Event), s.status.busy = true → s.rstIn = false → e.Plain s.nIn → e ≠ .engine →
    runEvent e s = .next t → t.status.busy = true ∧ t.cmd = s.cmd ∧ SameOperands s t

/-- R219, R245 (fairness in the model's form of the order: log entry 3): a pending command completes. From BUSY = 1
and reset not asserted, if the order brings no reset and no access the port refuses, then within one step more than
the order lists there is a state with BUSY = 0 and DONE = 1. -/
def Obligations.PendingCommandCompletes : Prop :=
  ∀ s : State, s.status.busy = true → s.rstIn = false → (∀ e ∈ s.events, e.Plain s.nIn) →
    ∃ k t, k ≤ s.events.length + 1 ∧ Sys2Proof.core.run k s = .next t
      ∧ t.status.busy = false ∧ t.status.done = true

/-! ### Repeated accesses -/

/-- R57: repeated reads return the same value when no engine step and no write come between, while BUSY = 1 too:
between two equal reads in the order stand reads only, and the two return the same data; the block is
unchanged, and the model's record has every read (log entry 4). -/
def Obligations.RepeatedReadsAgree : Prop :=
  ∀ (s : State) (off : BitVec 17) (n : Width) (rs : List (BitVec 17 × Width)) (es : List Event),
    s.rstIn = false → PortTakes s.nIn off.toNat n → (∀ r ∈ rs, PortTakes s.nIn r.1.toNat r.2) →
    s.events = .read off n :: (rs.map (fun r => .read r.1 r.2) ++ .read off n :: es) →
      ∃ (d : Word) (ds : List ReadBack), ds.length = rs.length
        ∧ Sys2Proof.core.run (rs.length + 2) s =
            .next { s with events := es, reads := ⟨off, n, d⟩ :: (ds ++ ⟨off, n, d⟩ :: s.reads) }

/-- R57: every taken write but one to CMD is idempotent; a repeated soft reset differs in the model's number of the
reset only (log entry 1). -/
def Obligations.WritesAreIdempotent : Prop :=
  ∀ (s t : State) (off : BitVec 17) (n : Width) (v : Word), hostWrite off n v s = .next t → off ≠ 0x00C →
    (¬(off = 0x004 ∧ v.getLsbD 1 = true) → hostWrite off n v t = .next t)
      ∧ (off = 0x004 → v.getLsbD 1 = true → hostWrite off n v t = .next { t with epoch := t.epoch + 1 })
end

