-- ==== Sys2Proof/Laws/State.lean ====
section
/-! SUPPORT. One lemma per field and update: what each shared operation writes and what it keeps. -/

namespace Sys2Proof.Machine

/-! ### setResult -/

@[simp] theorem setResult_ie (r0 r1 : DWord) (s : State) :
    (setResult r0 r1 s).ie = s.ie := rfl

@[simp] theorem setResult_status (r0 r1 : DWord) (s : State) :
    (setResult r0 r1 s).status = s.status := rfl

@[simp] theorem setResult_cmd (r0 r1 : DWord) (s : State) :
    (setResult r0 r1 s).cmd = s.cmd := rfl

@[simp] theorem setResult_seed (r0 r1 : DWord) (s : State) :
    (setResult r0 r1 s).seed = s.seed := rfl

@[simp] theorem setResult_offset (r0 r1 : DWord) (s : State) :
    (setResult r0 r1 s).offset = s.offset := rfl

@[simp] theorem setResult_count (r0 r1 : DWord) (s : State) :
    (setResult r0 r1 s).count = s.count := rfl

@[simp] theorem setResult_alen (r0 r1 : DWord) (s : State) :
    (setResult r0 r1 s).alen = s.alen := rfl

@[simp] theorem setResult_opa (r0 r1 : DWord) (s : State) :
    (setResult r0 r1 s).opa = s.opa := rfl

@[simp] theorem setResult_res0 (r0 r1 : DWord) (s : State) :
    (setResult r0 r1 s).res0 = r0 := rfl

@[simp] theorem setResult_res1 (r0 r1 : DWord) (s : State) :
    (setResult r0 r1 s).res1 = r1 := rfl

@[simp] theorem setResult_codeLen (r0 r1 : DWord) (s : State) :
    (setResult r0 r1 s).codeLen = s.codeLen := rfl

@[simp] theorem setResult_mem (r0 r1 : DWord) (s : State) :
    (setResult r0 r1 s).mem = s.mem := rfl

@[simp] theorem setResult_nIn (r0 r1 : DWord) (s : State) :
    (setResult r0 r1 s).nIn = s.nIn := rfl

@[simp] theorem setResult_rstIn (r0 r1 : DWord) (s : State) :
    (setResult r0 r1 s).rstIn = s.rstIn := rfl

@[simp] theorem setResult_events (r0 r1 : DWord) (s : State) :
    (setResult r0 r1 s).events = s.events := rfl

@[simp] theorem setResult_reads (r0 r1 : DWord) (s : State) :
    (setResult r0 r1 s).reads = s.reads := rfl

@[simp] theorem setResult_draws (r0 r1 : DWord) (s : State) :
    (setResult r0 r1 s).draws = s.draws := rfl

@[simp] theorem setResult_epoch (r0 r1 : DWord) (s : State) :
    (setResult r0 r1 s).epoch = s.epoch := rfl

/-! ### setCodeLen -/

@[simp] theorem setCodeLen_ie (n : BitVec 7) (s : State) :
    (setCodeLen n s).ie = s.ie := rfl

@[simp] theorem setCodeLen_status (n : BitVec 7) (s : State) :
    (setCodeLen n s).status = s.status := rfl

@[simp] theorem setCodeLen_cmd (n : BitVec 7) (s : State) :
    (setCodeLen n s).cmd = s.cmd := rfl

@[simp] theorem setCodeLen_seed (n : BitVec 7) (s : State) :
    (setCodeLen n s).seed = s.seed := rfl

@[simp] theorem setCodeLen_offset (n : BitVec 7) (s : State) :
    (setCodeLen n s).offset = s.offset := rfl

@[simp] theorem setCodeLen_count (n : BitVec 7) (s : State) :
    (setCodeLen n s).count = s.count := rfl

@[simp] theorem setCodeLen_alen (n : BitVec 7) (s : State) :
    (setCodeLen n s).alen = s.alen := rfl

@[simp] theorem setCodeLen_opa (n : BitVec 7) (s : State) :
    (setCodeLen n s).opa = s.opa := rfl

@[simp] theorem setCodeLen_res0 (n : BitVec 7) (s : State) :
    (setCodeLen n s).res0 = s.res0 := rfl

@[simp] theorem setCodeLen_res1 (n : BitVec 7) (s : State) :
    (setCodeLen n s).res1 = s.res1 := rfl

@[simp] theorem setCodeLen_codeLen (n : BitVec 7) (s : State) :
    (setCodeLen n s).codeLen = n := rfl

@[simp] theorem setCodeLen_mem (n : BitVec 7) (s : State) :
    (setCodeLen n s).mem = s.mem := rfl

@[simp] theorem setCodeLen_nIn (n : BitVec 7) (s : State) :
    (setCodeLen n s).nIn = s.nIn := rfl

@[simp] theorem setCodeLen_rstIn (n : BitVec 7) (s : State) :
    (setCodeLen n s).rstIn = s.rstIn := rfl

@[simp] theorem setCodeLen_events (n : BitVec 7) (s : State) :
    (setCodeLen n s).events = s.events := rfl

@[simp] theorem setCodeLen_reads (n : BitVec 7) (s : State) :
    (setCodeLen n s).reads = s.reads := rfl

@[simp] theorem setCodeLen_draws (n : BitVec 7) (s : State) :
    (setCodeLen n s).draws = s.draws := rfl

@[simp] theorem setCodeLen_epoch (n : BitVec 7) (s : State) :
    (setCodeLen n s).epoch = s.epoch := rfl

/-! ### issue -/

@[simp] theorem issue_ie (w : Word) (s : State) :
    (issue w s).ie = s.ie := rfl

@[simp] theorem issue_status (w : Word) (s : State) :
    (issue w s).status = s.status.issued := rfl

@[simp] theorem issue_cmd (w : Word) (s : State) :
    (issue w s).cmd = w := rfl

@[simp] theorem issue_seed (w : Word) (s : State) :
    (issue w s).seed = s.seed := rfl

@[simp] theorem issue_offset (w : Word) (s : State) :
    (issue w s).offset = s.offset := rfl

@[simp] theorem issue_count (w : Word) (s : State) :
    (issue w s).count = s.count := rfl

@[simp] theorem issue_alen (w : Word) (s : State) :
    (issue w s).alen = s.alen := rfl

@[simp] theorem issue_opa (w : Word) (s : State) :
    (issue w s).opa = s.opa := rfl

@[simp] theorem issue_res0 (w : Word) (s : State) :
    (issue w s).res0 = s.res0 := rfl

@[simp] theorem issue_res1 (w : Word) (s : State) :
    (issue w s).res1 = s.res1 := rfl

@[simp] theorem issue_codeLen (w : Word) (s : State) :
    (issue w s).codeLen = s.codeLen := rfl

@[simp] theorem issue_mem (w : Word) (s : State) :
    (issue w s).mem = s.mem := rfl

@[simp] theorem issue_nIn (w : Word) (s : State) :
    (issue w s).nIn = s.nIn := rfl

@[simp] theorem issue_rstIn (w : Word) (s : State) :
    (issue w s).rstIn = s.rstIn := rfl

@[simp] theorem issue_events (w : Word) (s : State) :
    (issue w s).events = s.events := rfl

@[simp] theorem issue_reads (w : Word) (s : State) :
    (issue w s).reads = s.reads := rfl

@[simp] theorem issue_draws (w : Word) (s : State) :
    (issue w s).draws = s.draws := rfl

@[simp] theorem issue_epoch (w : Word) (s : State) :
    (issue w s).epoch = s.epoch := rfl

/-! ### complete -/

@[simp] theorem complete_ie (s : State) :
    (complete s).ie = s.ie := rfl

@[simp] theorem complete_status (s : State) :
    (complete s).status = s.status.completed := rfl

@[simp] theorem complete_cmd (s : State) :
    (complete s).cmd = s.cmd := rfl

@[simp] theorem complete_seed (s : State) :
    (complete s).seed = s.seed := rfl

@[simp] theorem complete_offset (s : State) :
    (complete s).offset = s.offset := rfl

@[simp] theorem complete_count (s : State) :
    (complete s).count = s.count := rfl

@[simp] theorem complete_alen (s : State) :
    (complete s).alen = s.alen := rfl

@[simp] theorem complete_opa (s : State) :
    (complete s).opa = s.opa := rfl

@[simp] theorem complete_res0 (s : State) :
    (complete s).res0 = s.res0 := rfl

@[simp] theorem complete_res1 (s : State) :
    (complete s).res1 = s.res1 := rfl

@[simp] theorem complete_codeLen (s : State) :
    (complete s).codeLen = s.codeLen := rfl

@[simp] theorem complete_mem (s : State) :
    (complete s).mem = s.mem := rfl

@[simp] theorem complete_nIn (s : State) :
    (complete s).nIn = s.nIn := rfl

@[simp] theorem complete_rstIn (s : State) :
    (complete s).rstIn = s.rstIn := rfl

@[simp] theorem complete_events (s : State) :
    (complete s).events = s.events := rfl

@[simp] theorem complete_reads (s : State) :
    (complete s).reads = s.reads := rfl

@[simp] theorem complete_draws (s : State) :
    (complete s).draws = s.draws := rfl

@[simp] theorem complete_epoch (s : State) :
    (complete s).epoch = s.epoch := rfl

/-! ### raise -/

@[simp] theorem raise_ie (c : Cause) (s : State) :
    (raise c s).ie = s.ie := rfl

@[simp] theorem raise_status (c : Cause) (s : State) :
    (raise c s).status = s.status.reported c := rfl

@[simp] theorem raise_cmd (c : Cause) (s : State) :
    (raise c s).cmd = s.cmd := rfl

@[simp] theorem raise_seed (c : Cause) (s : State) :
    (raise c s).seed = s.seed := rfl

@[simp] theorem raise_offset (c : Cause) (s : State) :
    (raise c s).offset = s.offset := rfl

@[simp] theorem raise_count (c : Cause) (s : State) :
    (raise c s).count = s.count := rfl

@[simp] theorem raise_alen (c : Cause) (s : State) :
    (raise c s).alen = s.alen := rfl

@[simp] theorem raise_opa (c : Cause) (s : State) :
    (raise c s).opa = s.opa := rfl

@[simp] theorem raise_res0 (c : Cause) (s : State) :
    (raise c s).res0 = s.res0 := rfl

@[simp] theorem raise_res1 (c : Cause) (s : State) :
    (raise c s).res1 = s.res1 := rfl

@[simp] theorem raise_codeLen (c : Cause) (s : State) :
    (raise c s).codeLen = s.codeLen := rfl

@[simp] theorem raise_mem (c : Cause) (s : State) :
    (raise c s).mem = s.mem := rfl

@[simp] theorem raise_nIn (c : Cause) (s : State) :
    (raise c s).nIn = s.nIn := rfl

@[simp] theorem raise_rstIn (c : Cause) (s : State) :
    (raise c s).rstIn = s.rstIn := rfl

@[simp] theorem raise_events (c : Cause) (s : State) :
    (raise c s).events = s.events := rfl

@[simp] theorem raise_reads (c : Cause) (s : State) :
    (raise c s).reads = s.reads := rfl

@[simp] theorem raise_draws (c : Cause) (s : State) :
    (raise c s).draws = s.draws := rfl

@[simp] theorem raise_epoch (c : Cause) (s : State) :
    (raise c s).epoch = s.epoch := rfl

/-! ### acknowledge -/

@[simp] theorem acknowledge_ie (v : Word) (s : State) :
    (acknowledge v s).ie = s.ie := rfl

@[simp] theorem acknowledge_status (v : Word) (s : State) :
    (acknowledge v s).status = s.status.acknowledged v := rfl

@[simp] theorem acknowledge_cmd (v : Word) (s : State) :
    (acknowledge v s).cmd = s.cmd := rfl

@[simp] theorem acknowledge_seed (v : Word) (s : State) :
    (acknowledge v s).seed = s.seed := rfl

@[simp] theorem acknowledge_offset (v : Word) (s : State) :
    (acknowledge v s).offset = s.offset := rfl

@[simp] theorem acknowledge_count (v : Word) (s : State) :
    (acknowledge v s).count = s.count := rfl

@[simp] theorem acknowledge_alen (v : Word) (s : State) :
    (acknowledge v s).alen = s.alen := rfl

@[simp] theorem acknowledge_opa (v : Word) (s : State) :
    (acknowledge v s).opa = s.opa := rfl

@[simp] theorem acknowledge_res0 (v : Word) (s : State) :
    (acknowledge v s).res0 = s.res0 := rfl

@[simp] theorem acknowledge_res1 (v : Word) (s : State) :
    (acknowledge v s).res1 = s.res1 := rfl

@[simp] theorem acknowledge_codeLen (v : Word) (s : State) :
    (acknowledge v s).codeLen = s.codeLen := rfl

@[simp] theorem acknowledge_mem (v : Word) (s : State) :
    (acknowledge v s).mem = s.mem := rfl

@[simp] theorem acknowledge_nIn (v : Word) (s : State) :
    (acknowledge v s).nIn = s.nIn := rfl

@[simp] theorem acknowledge_rstIn (v : Word) (s : State) :
    (acknowledge v s).rstIn = s.rstIn := rfl

@[simp] theorem acknowledge_events (v : Word) (s : State) :
    (acknowledge v s).events = s.events := rfl

@[simp] theorem acknowledge_reads (v : Word) (s : State) :
    (acknowledge v s).reads = s.reads := rfl

@[simp] theorem acknowledge_draws (v : Word) (s : State) :
    (acknowledge v s).draws = s.draws := rfl

@[simp] theorem acknowledge_epoch (v : Word) (s : State) :
    (acknowledge v s).epoch = s.epoch := rfl

/-! ### dropWrite -/

@[simp] theorem dropWrite_ie (s : State) :
    (dropWrite s).ie = s.ie := rfl

@[simp] theorem dropWrite_status (s : State) :
    (dropWrite s).status = s.status.dropped := rfl

@[simp] theorem dropWrite_cmd (s : State) :
    (dropWrite s).cmd = s.cmd := rfl

@[simp] theorem dropWrite_seed (s : State) :
    (dropWrite s).seed = s.seed := rfl

@[simp] theorem dropWrite_offset (s : State) :
    (dropWrite s).offset = s.offset := rfl

@[simp] theorem dropWrite_count (s : State) :
    (dropWrite s).count = s.count := rfl

@[simp] theorem dropWrite_alen (s : State) :
    (dropWrite s).alen = s.alen := rfl

@[simp] theorem dropWrite_opa (s : State) :
    (dropWrite s).opa = s.opa := rfl

@[simp] theorem dropWrite_res0 (s : State) :
    (dropWrite s).res0 = s.res0 := rfl

@[simp] theorem dropWrite_res1 (s : State) :
    (dropWrite s).res1 = s.res1 := rfl

@[simp] theorem dropWrite_codeLen (s : State) :
    (dropWrite s).codeLen = s.codeLen := rfl

@[simp] theorem dropWrite_mem (s : State) :
    (dropWrite s).mem = s.mem := rfl

@[simp] theorem dropWrite_nIn (s : State) :
    (dropWrite s).nIn = s.nIn := rfl

@[simp] theorem dropWrite_rstIn (s : State) :
    (dropWrite s).rstIn = s.rstIn := rfl

@[simp] theorem dropWrite_events (s : State) :
    (dropWrite s).events = s.events := rfl

@[simp] theorem dropWrite_reads (s : State) :
    (dropWrite s).reads = s.reads := rfl

@[simp] theorem dropWrite_draws (s : State) :
    (dropWrite s).draws = s.draws := rfl

@[simp] theorem dropWrite_epoch (s : State) :
    (dropWrite s).epoch = s.epoch := rfl

/-! ### writeByte -/

@[simp] theorem writeByte_ie (s : State) (off : Nat) (b : Byte) :
    (writeByte s off b).ie = s.ie := rfl

@[simp] theorem writeByte_status (s : State) (off : Nat) (b : Byte) :
    (writeByte s off b).status = s.status := rfl

@[simp] theorem writeByte_cmd (s : State) (off : Nat) (b : Byte) :
    (writeByte s off b).cmd = s.cmd := rfl

@[simp] theorem writeByte_seed (s : State) (off : Nat) (b : Byte) :
    (writeByte s off b).seed = s.seed := rfl

@[simp] theorem writeByte_offset (s : State) (off : Nat) (b : Byte) :
    (writeByte s off b).offset = s.offset := rfl

@[simp] theorem writeByte_count (s : State) (off : Nat) (b : Byte) :
    (writeByte s off b).count = s.count := rfl

@[simp] theorem writeByte_alen (s : State) (off : Nat) (b : Byte) :
    (writeByte s off b).alen = s.alen := rfl

@[simp] theorem writeByte_opa (s : State) (off : Nat) (b : Byte) :
    (writeByte s off b).opa = s.opa := rfl

@[simp] theorem writeByte_res0 (s : State) (off : Nat) (b : Byte) :
    (writeByte s off b).res0 = s.res0 := rfl

@[simp] theorem writeByte_res1 (s : State) (off : Nat) (b : Byte) :
    (writeByte s off b).res1 = s.res1 := rfl

@[simp] theorem writeByte_codeLen (s : State) (off : Nat) (b : Byte) :
    (writeByte s off b).codeLen = s.codeLen := rfl

@[simp] theorem writeByte_mem (s : State) (off : Nat) (b : Byte) :
    (writeByte s off b).mem = s.mem.insert off b := rfl

@[simp] theorem writeByte_nIn (s : State) (off : Nat) (b : Byte) :
    (writeByte s off b).nIn = s.nIn := rfl

@[simp] theorem writeByte_rstIn (s : State) (off : Nat) (b : Byte) :
    (writeByte s off b).rstIn = s.rstIn := rfl

@[simp] theorem writeByte_events (s : State) (off : Nat) (b : Byte) :
    (writeByte s off b).events = s.events := rfl

@[simp] theorem writeByte_reads (s : State) (off : Nat) (b : Byte) :
    (writeByte s off b).reads = s.reads := rfl

@[simp] theorem writeByte_draws (s : State) (off : Nat) (b : Byte) :
    (writeByte s off b).draws = s.draws := rfl

@[simp] theorem writeByte_epoch (s : State) (off : Nat) (b : Byte) :
    (writeByte s off b).epoch = s.epoch := rfl

/-! ### returnData -/

@[simp] theorem returnData_ie (off : BitVec 17) (n : Width) (d : Word) (s : State) :
    (returnData off n d s).ie = s.ie := rfl

@[simp] theorem returnData_status (off : BitVec 17) (n : Width) (d : Word) (s : State) :
    (returnData off n d s).status = s.status := rfl

@[simp] theorem returnData_cmd (off : BitVec 17) (n : Width) (d : Word) (s : State) :
    (returnData off n d s).cmd = s.cmd := rfl

@[simp] theorem returnData_seed (off : BitVec 17) (n : Width) (d : Word) (s : State) :
    (returnData off n d s).seed = s.seed := rfl

@[simp] theorem returnData_offset (off : BitVec 17) (n : Width) (d : Word) (s : State) :
    (returnData off n d s).offset = s.offset := rfl

@[simp] theorem returnData_count (off : BitVec 17) (n : Width) (d : Word) (s : State) :
    (returnData off n d s).count = s.count := rfl

@[simp] theorem returnData_alen (off : BitVec 17) (n : Width) (d : Word) (s : State) :
    (returnData off n d s).alen = s.alen := rfl

@[simp] theorem returnData_opa (off : BitVec 17) (n : Width) (d : Word) (s : State) :
    (returnData off n d s).opa = s.opa := rfl

@[simp] theorem returnData_res0 (off : BitVec 17) (n : Width) (d : Word) (s : State) :
    (returnData off n d s).res0 = s.res0 := rfl

@[simp] theorem returnData_res1 (off : BitVec 17) (n : Width) (d : Word) (s : State) :
    (returnData off n d s).res1 = s.res1 := rfl

@[simp] theorem returnData_codeLen (off : BitVec 17) (n : Width) (d : Word) (s : State) :
    (returnData off n d s).codeLen = s.codeLen := rfl

@[simp] theorem returnData_mem (off : BitVec 17) (n : Width) (d : Word) (s : State) :
    (returnData off n d s).mem = s.mem := rfl

@[simp] theorem returnData_nIn (off : BitVec 17) (n : Width) (d : Word) (s : State) :
    (returnData off n d s).nIn = s.nIn := rfl

@[simp] theorem returnData_rstIn (off : BitVec 17) (n : Width) (d : Word) (s : State) :
    (returnData off n d s).rstIn = s.rstIn := rfl

@[simp] theorem returnData_events (off : BitVec 17) (n : Width) (d : Word) (s : State) :
    (returnData off n d s).events = s.events := rfl

@[simp] theorem returnData_reads (off : BitVec 17) (n : Width) (d : Word) (s : State) :
    (returnData off n d s).reads = { off := off, n := n, data := d } :: s.reads := rfl

@[simp] theorem returnData_draws (off : BitVec 17) (n : Width) (d : Word) (s : State) :
    (returnData off n d s).draws = s.draws := rfl

@[simp] theorem returnData_epoch (off : BitVec 17) (n : Width) (d : Word) (s : State) :
    (returnData off n d s).epoch = s.epoch := rfl

/-! ### freshDraw -/

@[simp] theorem freshDraw_ie (s : State) : (freshDraw s).ie = s.ie := rfl

@[simp] theorem freshDraw_status (s : State) : (freshDraw s).status = s.status := rfl

@[simp] theorem freshDraw_cmd (s : State) : (freshDraw s).cmd = s.cmd := rfl

@[simp] theorem freshDraw_seed (s : State) : (freshDraw s).seed = s.seed := rfl

@[simp] theorem freshDraw_offset (s : State) : (freshDraw s).offset = s.offset := rfl

@[simp] theorem freshDraw_count (s : State) : (freshDraw s).count = s.count := rfl

@[simp] theorem freshDraw_alen (s : State) : (freshDraw s).alen = s.alen := rfl

@[simp] theorem freshDraw_opa (s : State) : (freshDraw s).opa = s.opa := rfl

@[simp] theorem freshDraw_res0 (s : State) : (freshDraw s).res0 = s.res0 := rfl

@[simp] theorem freshDraw_res1 (s : State) : (freshDraw s).res1 = s.res1 := rfl

@[simp] theorem freshDraw_codeLen (s : State) : (freshDraw s).codeLen = s.codeLen := rfl

@[simp] theorem freshDraw_mem (s : State) : (freshDraw s).mem = s.mem := rfl

@[simp] theorem freshDraw_nIn (s : State) : (freshDraw s).nIn = s.nIn := rfl

@[simp] theorem freshDraw_rstIn (s : State) : (freshDraw s).rstIn = s.rstIn := rfl

@[simp] theorem freshDraw_events (s : State) : (freshDraw s).events = s.events := rfl

@[simp] theorem freshDraw_reads (s : State) : (freshDraw s).reads = s.reads := rfl

@[simp] theorem freshDraw_draws (s : State) : (freshDraw s).draws = s.draws + 1 := rfl

@[simp] theorem freshDraw_epoch (s : State) : (freshDraw s).epoch = s.epoch := rfl

/-! ### resetBlock -/

@[simp] theorem resetBlock_ie (s : State) : (resetBlock s).ie = false := rfl

@[simp] theorem resetBlock_status (s : State) : (resetBlock s).status = Status.cleared := rfl

@[simp] theorem resetBlock_cmd (s : State) : (resetBlock s).cmd = 0 := rfl

@[simp] theorem resetBlock_seed (s : State) : (resetBlock s).seed = 0 := rfl

@[simp] theorem resetBlock_offset (s : State) : (resetBlock s).offset = 0 := rfl

@[simp] theorem resetBlock_count (s : State) : (resetBlock s).count = 0 := rfl

@[simp] theorem resetBlock_alen (s : State) : (resetBlock s).alen = 0 := rfl

@[simp] theorem resetBlock_opa (s : State) : (resetBlock s).opa = 0 := rfl

@[simp] theorem resetBlock_res0 (s : State) : (resetBlock s).res0 = 0 := rfl

@[simp] theorem resetBlock_res1 (s : State) : (resetBlock s).res1 = 0 := rfl

@[simp] theorem resetBlock_codeLen (s : State) : (resetBlock s).codeLen = 0 := rfl

@[simp] theorem resetBlock_mem (s : State) : (resetBlock s).mem = [] := rfl

@[simp] theorem resetBlock_nIn (s : State) : (resetBlock s).nIn = s.nIn := rfl

@[simp] theorem resetBlock_rstIn (s : State) : (resetBlock s).rstIn = s.rstIn := rfl

@[simp] theorem resetBlock_events (s : State) : (resetBlock s).events = s.events := rfl

@[simp] theorem resetBlock_reads (s : State) : (resetBlock s).reads = s.reads := rfl

@[simp] theorem resetBlock_draws (s : State) : (resetBlock s).draws = s.draws := rfl

@[simp] theorem resetBlock_epoch (s : State) : (resetBlock s).epoch = s.epoch + 1 := rfl

/-! ### Status.issued -/

@[simp] theorem Status.issued_busy (t : Status) :
    (t.issued).busy = true := rfl

@[simp] theorem Status.issued_done (t : Status) :
    (t.issued).done = false := rfl

@[simp] theorem Status.issued_err (t : Status) :
    (t.issued).err = false := rfl

@[simp] theorem Status.issued_wbusy (t : Status) :
    (t.issued).wbusy = t.wbusy := rfl

@[simp] theorem Status.issued_errKind (t : Status) :
    (t.issued).errKind = none := rfl

@[simp] theorem Status.issued_errCause (t : Status) :
    (t.issued).errCause = none := rfl

/-! ### Status.completed -/

@[simp] theorem Status.completed_busy (t : Status) :
    (t.completed).busy = false := rfl

@[simp] theorem Status.completed_done (t : Status) :
    (t.completed).done = true := rfl

@[simp] theorem Status.completed_err (t : Status) :
    (t.completed).err = t.err := rfl

@[simp] theorem Status.completed_wbusy (t : Status) :
    (t.completed).wbusy = t.wbusy := rfl

@[simp] theorem Status.completed_errKind (t : Status) :
    (t.completed).errKind = t.errKind := rfl

@[simp] theorem Status.completed_errCause (t : Status) :
    (t.completed).errCause = t.errCause := rfl

/-! ### Status.reported -/

@[simp] theorem Status.reported_busy (c : Cause) (t : Status) :
    (t.reported c).busy = false := rfl

@[simp] theorem Status.reported_done (c : Cause) (t : Status) :
    (t.reported c).done = true := rfl

@[simp] theorem Status.reported_err (c : Cause) (t : Status) :
    (t.reported c).err = true := rfl

@[simp] theorem Status.reported_wbusy (c : Cause) (t : Status) :
    (t.reported c).wbusy = t.wbusy := rfl

@[simp] theorem Status.reported_errKind (c : Cause) (t : Status) :
    (t.reported c).errKind = some .invalidArgument := rfl

@[simp] theorem Status.reported_errCause (c : Cause) (t : Status) :
    (t.reported c).errCause = some c := rfl

/-! ### Status.dropped -/

@[simp] theorem Status.dropped_busy (t : Status) :
    (t.dropped).busy = t.busy := rfl

@[simp] theorem Status.dropped_done (t : Status) :
    (t.dropped).done = t.done := rfl

@[simp] theorem Status.dropped_err (t : Status) :
    (t.dropped).err = t.err := rfl

@[simp] theorem Status.dropped_wbusy (t : Status) :
    (t.dropped).wbusy = true := rfl

@[simp] theorem Status.dropped_errKind (t : Status) :
    (t.dropped).errKind = t.errKind := rfl

@[simp] theorem Status.dropped_errCause (t : Status) :
    (t.dropped).errCause = t.errCause := rfl

/-! ### Status.acknowledged -/

@[simp] theorem Status.acknowledged_busy (v : Word) (t : Status) :
    (t.acknowledged v).busy = t.busy := rfl

@[simp] theorem Status.acknowledged_done (v : Word) (t : Status) :
    (t.acknowledged v).done = (t.done && !v.getLsbD 1) := rfl

@[simp] theorem Status.acknowledged_err (v : Word) (t : Status) :
    (t.acknowledged v).err = (t.err && !v.getLsbD 2) := rfl

@[simp] theorem Status.acknowledged_wbusy (v : Word) (t : Status) :
    (t.acknowledged v).wbusy = (t.wbusy && !v.getLsbD 3) := rfl

@[simp] theorem Status.acknowledged_errKind (v : Word) (t : Status) :
    (t.acknowledged v).errKind = if v.getLsbD 2 then none else t.errKind := rfl

@[simp] theorem Status.acknowledged_errCause (v : Word) (t : Status) :
    (t.acknowledged v).errCause = if v.getLsbD 2 then none else t.errCause := rfl

end Sys2Proof.Machine
end

