-- ==== Sys2Proof/Laws/Memory.lean ====
section
/-! SUPPORT. The byte store: a read after a write, the canonical form, and the little-endian views. -/

namespace Sys2Proof.Machine

/-! ### Bytes of a value -/

@[simp] theorem leBytes_length (n v : Nat) : (leBytes n v).length = n := by
  induction n generalizing v with
  | zero => rfl
  | succ n ih => simp [leBytes, ih]

theorem leBytes_getElem (n v j : Nat) (h : j < (leBytes n v).length) :
    (leBytes n v)[j] = BitVec.ofNat 8 (v / 256 ^ j) := by
  induction n generalizing v j with
  | zero => simp [leBytes] at h
  | succ n ih =>
    cases j with
    | zero => simp [leBytes]
    | succ j =>
      simp only [leBytes, List.getElem_cons_succ]
      rw [ih, Nat.div_div_eq_div_mul, pow_succ, Nat.mul_comm]

theorem leNat_lt (bs : List Byte) : leNat bs < 256 ^ bs.length := by
  induction bs with
  | nil => simp [leNat]
  | cons b bs ih =>
    have hb := b.isLt
    simp only [leNat, List.length_cons, pow_succ]
    omega

theorem leNat_leBytes (n v : Nat) : leNat (leBytes n v) = v % 256 ^ n := by
  induction n generalizing v with
  | zero => simp [leBytes, leNat, Nat.mod_one]
  | succ n ih =>
    have hp : 256 ^ (n + 1) = 256 * 256 ^ n := by rw [pow_succ, Nat.mul_comm]
    simp only [leBytes, leNat, ih, BitVec.toNat_ofNat]
    rw [hp, Nat.mod_mul]

/-- Byte `j` of the value of some bytes is the byte at place `j`. -/
theorem leNat_byte (bs : List Byte) (j : Nat) (h : j < bs.length) :
    leNat bs / 256 ^ j % 256 = bs[j].toNat := by
  induction bs generalizing j with
  | nil => simp at h
  | cons b bs ih =>
    have hb := b.isLt
    cases j with
    | zero => simp [leNat]; omega
    | succ j =>
      simp only [List.length_cons, Nat.add_lt_add_iff_right] at h
      have hd : leNat (b :: bs) / 256 = leNat bs := by simp only [leNat]; omega
      rw [pow_succ, Nat.mul_comm, ← Nat.div_div_eq_div_mul, hd, ih j h]
      rfl

/-! ### The store -/

theorem Memory.lookup_insert (m : Memory) (k j : Nat) (v : Byte) :
    (m.insert k v).lookup j = if j = k then some v else m.lookup j := by
  induction m with
  | nil => by_cases h : j = k <;> simp [Memory.insert, Memory.lookup, h]
  | cons c m ih =>
    obtain ⟨a, b⟩ := c
    simp only [Memory.insert]
    split
    · rfl
    · split
      · next _ hka => subst hka; by_cases h : j = k <;> simp [Memory.lookup, h]
      · next _ hka =>
        by_cases h : j = a
        · subst h
          simp [Memory.lookup, Ne.symm hka]
        · simp [Memory.lookup, h, ih]

theorem Memory.mem_insert {m : Memory} {k : Nat} {v : Byte} {c : Host.Cell} (h : c ∈ m.insert k v) :
    c = (k, v) ∨ c ∈ m := by
  induction m with
  | nil => exact .inl (by simpa [Memory.insert] using h)
  | cons d m ih =>
    obtain ⟨a, b⟩ := d
    simp only [Memory.insert] at h
    split at h
    · simpa using h
    · split at h
      · rcases List.mem_cons.1 h with h | h
        · exact .inl h
        · exact .inr (List.mem_cons_of_mem _ h)
      · rcases List.mem_cons.1 h with h | h
        · exact .inr (by simp [h])
        · exact (ih h).imp id (List.mem_cons_of_mem _)

theorem Memory.insert_wf {m : Memory} (h : m.wf) (k : Nat) (v : Byte) : (m.insert k v).wf := by
  induction m with
  | nil => exact List.pairwise_singleton _ _
  | cons d m ih =>
    obtain ⟨a, b⟩ := d
    have ⟨ha, hm⟩ := List.pairwise_cons.1 h
    simp only [Memory.insert]
    split
    · next hk =>
      refine List.pairwise_cons.2 ⟨fun c hc => ?_, h⟩
      rcases List.mem_cons.1 hc with rfl | hc
      · exact hk
      · exact Nat.lt_trans hk (ha c hc)
    · split
      · next hk => exact List.pairwise_cons.2 ⟨fun c hc => hk ▸ ha c hc, hm⟩
      · refine List.pairwise_cons.2 ⟨fun c hc => ?_, ih hm⟩
        rcases Memory.mem_insert hc with rfl | hc
        · show a < k
          omega
        · exact ha c hc

/-- A second write of the same byte changes nothing. -/
@[simp] theorem Memory.insert_insert (m : Memory) (k : Nat) (v : Byte) :
    (m.insert k v).insert k v = m.insert k v := by
  induction m with
  | nil => simp [Memory.insert]
  | cons c m ih =>
    obtain ⟨a, b⟩ := c
    simp only [Memory.insert]
    split
    · simp [Memory.insert]
    · split
      · simp [Memory.insert]
      · simp_all [Memory.insert]

/-- A byte that is written stays so under a write at a higher offset. -/
theorem Memory.insert_of_lt {m : Memory} {k l : Nat} {v : Byte} (h : m.insert k v = m) (hkl : k < l) (w : Byte) :
    (m.insert l w).insert k v = m.insert l w := by
  induction m with
  | nil => simp [Memory.insert] at h
  | cons c m ih =>
    obtain ⟨a, b⟩ := c
    simp only [Memory.insert] at h ⊢
    split at h
    · simpa using congrArg List.length h
    · next hka =>
      split at h
      · next he =>
        subst he
        obtain rfl : v = b := by simpa using h
        simp [Memory.insert, show ¬ l < k by omega, show l ≠ k by omega]
      · next hne =>
        have hm : Memory.insert m k v = m := by simpa using h
        simp only [show ¬ l < a by omega, if_false, show l ≠ a by omega, Memory.insert, hka, hne, ih hm]

/-! ### Reading and writing bytes -/

/-- A read depends on the store and the current reset only. -/
theorem readByte_congr {s t : State} (hm : t.mem = s.mem) (he : t.epoch = s.epoch) (off : Nat) :
    readByte t off = readByte s off := by
  simp [readByte, hm, he]

theorem readByte_writeByte (s : State) (off a : Nat) (b : Byte) :
    readByte (writeByte s off b) a = if a = off then b else readByte s a := by
  by_cases h : a = off <;> simp [readByte, Memory.lookup_insert, h]

/-- Writing bytes changes the byte store only. -/
theorem writeBytes_eq (s : State) (off : Nat) (bs : List Byte) :
    writeBytes s off bs = { s with mem := (writeBytes s off bs).mem } := by
  induction bs generalizing s off with
  | nil => rfl
  | cons b bs ih => rw [writeBytes, ih]; rfl

@[simp] theorem writeBytes_ie (s : State) (off : Nat) (bs : List Byte) :
    (writeBytes s off bs).ie = s.ie := by rw [writeBytes_eq]

@[simp] theorem writeBytes_status (s : State) (off : Nat) (bs : List Byte) :
    (writeBytes s off bs).status = s.status := by rw [writeBytes_eq]

@[simp] theorem writeBytes_cmd (s : State) (off : Nat) (bs : List Byte) :
    (writeBytes s off bs).cmd = s.cmd := by rw [writeBytes_eq]

@[simp] theorem writeBytes_seed (s : State) (off : Nat) (bs : List Byte) :
    (writeBytes s off bs).seed = s.seed := by rw [writeBytes_eq]

@[simp] theorem writeBytes_offset (s : State) (off : Nat) (bs : List Byte) :
    (writeBytes s off bs).offset = s.offset := by rw [writeBytes_eq]

@[simp] theorem writeBytes_count (s : State) (off : Nat) (bs : List Byte) :
    (writeBytes s off bs).count = s.count := by rw [writeBytes_eq]

@[simp] theorem writeBytes_alen (s : State) (off : Nat) (bs : List Byte) :
    (writeBytes s off bs).alen = s.alen := by rw [writeBytes_eq]

@[simp] theorem writeBytes_opa (s : State) (off : Nat) (bs : List Byte) :
    (writeBytes s off bs).opa = s.opa := by rw [writeBytes_eq]

@[simp] theorem writeBytes_res0 (s : State) (off : Nat) (bs : List Byte) :
    (writeBytes s off bs).res0 = s.res0 := by rw [writeBytes_eq]

@[simp] theorem writeBytes_res1 (s : State) (off : Nat) (bs : List Byte) :
    (writeBytes s off bs).res1 = s.res1 := by rw [writeBytes_eq]

@[simp] theorem writeBytes_codeLen (s : State) (off : Nat) (bs : List Byte) :
    (writeBytes s off bs).codeLen = s.codeLen := by rw [writeBytes_eq]

@[simp] theorem writeBytes_nIn (s : State) (off : Nat) (bs : List Byte) :
    (writeBytes s off bs).nIn = s.nIn := by rw [writeBytes_eq]

@[simp] theorem writeBytes_rstIn (s : State) (off : Nat) (bs : List Byte) :
    (writeBytes s off bs).rstIn = s.rstIn := by rw [writeBytes_eq]

@[simp] theorem writeBytes_events (s : State) (off : Nat) (bs : List Byte) :
    (writeBytes s off bs).events = s.events := by rw [writeBytes_eq]

@[simp] theorem writeBytes_reads (s : State) (off : Nat) (bs : List Byte) :
    (writeBytes s off bs).reads = s.reads := by rw [writeBytes_eq]

@[simp] theorem writeBytes_draws (s : State) (off : Nat) (bs : List Byte) :
    (writeBytes s off bs).draws = s.draws := by rw [writeBytes_eq]

@[simp] theorem writeBytes_epoch (s : State) (off : Nat) (bs : List Byte) :
    (writeBytes s off bs).epoch = s.epoch := by rw [writeBytes_eq]

theorem readByte_writeBytes_outside (s : State) (off a : Nat) (bs : List Byte)
    (h : a < off ∨ off + bs.length ≤ a) : readByte (writeBytes s off bs) a = readByte s a := by
  induction bs generalizing s off with
  | nil => rfl
  | cons b bs ih =>
    simp only [List.length_cons] at h
    rw [writeBytes, ih _ _ (by omega), readByte_writeByte, if_neg (by omega)]

theorem readByte_writeBytes_inside (s : State) (off j : Nat) (bs : List Byte) (h : j < bs.length) :
    readByte (writeBytes s off bs) (off + j) = bs[j] := by
  induction bs generalizing s off j with
  | nil => simp at h
  | cons b bs ih =>
    cases j with
    | zero =>
      rw [writeBytes, readByte_writeBytes_outside _ _ _ _ (by omega), readByte_writeByte]
      simp
    | succ j =>
      rw [writeBytes, show off + (j + 1) = off + 1 + j by omega, ih _ _ j (by simpa using h)]
      rfl

theorem writeBytes_wf {s : State} (h : s.mem.wf) (off : Nat) (bs : List Byte) :
    (writeBytes s off bs).mem.wf := by
  induction bs generalizing s off with
  | nil => exact h
  | cons b bs ih => exact ih (Memory.insert_wf h _ _) _

/-- What the store lists after a write: what it listed, and offsets written to. -/
theorem mem_writeBytes {s : State} {off : Nat} {bs : List Byte} {c : Host.Cell}
    (h : c ∈ (writeBytes s off bs).mem) : c ∈ s.mem ∨ (off ≤ c.1 ∧ c.1 < off + bs.length) := by
  induction bs generalizing s off with
  | nil => exact .inl h
  | cons b bs ih =>
    rw [writeBytes] at h
    simp only [List.length_cons]
    rcases ih h with h | h
    · rcases Memory.mem_insert h with rfl | h
      · right; constructor <;> simp
      · exact .inl h
    · right; omega

@[simp] theorem readBytes_length (s : State) (off n : Nat) : (readBytes s off n).length = n := by
  induction n generalizing off with
  | zero => rfl
  | succ n ih => simp [readBytes, ih]

theorem readBytes_getElem (s : State) (off n j : Nat) (h : j < (readBytes s off n).length) :
    (readBytes s off n)[j] = readByte s (off + j) := by
  induction n generalizing off j with
  | zero => simp at h
  | succ n ih =>
    cases j with
    | zero => simp [readBytes]
    | succ j =>
      simp only [readBytes, List.getElem_cons_succ]
      rw [ih, show off + 1 + j = off + (j + 1) by omega]

theorem readBytes_eq_bytesFrom (s : State) (off n : Nat) : readBytes s off n = bytesFrom s off n := by
  refine List.ext_getElem (by simp [bytesFrom]) fun j h1 h2 => ?_
  rw [readBytes_getElem]
  simp [bytesFrom]

/-- Byte ranges that agree are read alike, wherever they stand. -/
theorem readBytes_congr {s t : State} {a b n : Nat}
    (h : ∀ j, j < n → readByte s (a + j) = readByte t (b + j)) : readBytes s a n = readBytes t b n := by
  refine List.ext_getElem (by simp) fun j h1 h2 => ?_
  rw [readBytes_getElem, readBytes_getElem]
  exact h j (by simpa using h1)

end Sys2Proof.Machine
end

