-- ==== Sys2Proof/Laws/Port.lean ====
section
/-! SUPPORT. The host port: which accesses it takes and what they can do. -/

namespace Sys2Proof.Machine

/-- The register map R21 is dense: the multiples of 4 below 0x50. -/
theorem regAt_isSome_iff (off : Nat) : (regAt off).isSome = true ↔ off < 0x50 ∧ off % 4 = 0 := by
  simp only [regAt, Reg.rows, List.find?_isSome, List.mem_cons, List.not_mem_nil, or_false, exists_eq_or_imp,
    exists_eq_left, Reg.offsetOf, beq_iff_eq]
  omega

/-- A register's own offset reaches it. -/
@[simp] theorem regAt_offsetOf (r : Reg) : regAt r.offsetOf = some r := by cases r <;> rfl

@[simp] theorem portTarget_offsetOf (nIn : Nat) (r : Reg) :
    portTarget nIn r.offsetOf .word = some (.reg r) := by
  cases r <;> rfl

theorem bufferAt_isSome_iff (nIn off n : Nat) :
    (bufferAt nIn off n).isSome = true ↔
      (0x100 ≤ off ∧ off + n ≤ 0x200) ∨ (0x200 ≤ off ∧ off + n ≤ 0x240)
        ∨ (0x10000 ≤ off ∧ off + n ≤ 0x10000 + nIn) := by
  simp only [bufferAt, List.find?_isSome, List.mem_cons, List.not_mem_nil, or_false, exists_eq_or_imp,
    exists_eq_left, Buffer.holds, Bool.and_eq_true, decide_eq_true_eq]
  simp only [Buffer.base, Buffer.size, Config.alphaMax, Config.codeMax]

/-- The accesses the port takes, spelled out (R52, R53, R56). -/
theorem portTarget_isSome_iff (nIn off : Nat) (n : Width) :
    (portTarget nIn off n).isSome = true ↔ PortTakes nIn off n := by
  unfold portTarget PortTakes
  split
  · next hr =>
    split
    · next h =>
      obtain ⟨rfl, h4⟩ := h
      rw [Option.isSome_map, regAt_isSome_iff]
      simp only [true_and]
      omega
    · next h =>
      simp only [Option.isSome_none, Bool.false_eq_true, false_iff]
      rintro (⟨-, hn, h4⟩ | ⟨-, h⟩)
      · exact h ⟨hn, h4⟩
      · omega
  · next hr =>
    split
    · next h =>
      rw [Option.isSome_map, bufferAt_isSome_iff]
      exact ⟨fun hb => .inr ⟨h, hb⟩, fun ho => ho.elim (fun ho => absurd ho.1 (by omega)) And.right⟩
    · next h =>
      simp only [Option.isSome_none, Bool.false_eq_true, false_iff]
      rintro (⟨ho, -⟩ | ⟨ho, -⟩)
      · omega
      · exact h ho

theorem bufferAt_some {nIn off n : Nat} {b : Buffer} (h : bufferAt nIn off n = some b) :
    b.base ≤ off ∧ off + n ≤ b.base + b.size nIn := by
  have := List.find?_some h
  simpa [Buffer.holds] using this

/-- An access that reaches a buffer lies inside it and is naturally aligned (R53). -/
theorem portTarget_buf {nIn off : Nat} {n : Width} {b : Buffer} (h : portTarget nIn off n = some (.buf b)) :
    0x100 ≤ off ∧ off % n.bytes = 0 ∧ b.base ≤ off ∧ off + n.bytes ≤ b.base + b.size nIn := by
  unfold portTarget at h
  split at h
  · split at h
    · cases hr : regAt off <;> simp [hr] at h
    · simp at h
  · split at h
    · next h1 h2 =>
      cases hb : bufferAt nIn off n.bytes with
      | none => simp [hb] at h
      | some b' =>
        simp only [hb, Option.map_some, Option.some.injEq, Target.buf.injEq] at h
        subst h
        have := bufferAt_some hb
        exact ⟨by omega, h2, this.1, this.2⟩
    · simp at h

/-- Every byte of an access that reaches a buffer is a buffer byte. -/
theorem portTarget_buf_inBuffer {nIn off : Nat} {n : Width} {b : Buffer}
    (h : portTarget nIn off n = some (.buf b)) (a : Nat) (h1 : off ≤ a) (h2 : a < off + n.bytes) :
    InBuffer nIn a := by
  have ⟨_, _, h3, h4⟩ := portTarget_buf h
  cases b <;> simp only [Buffer.base, Buffer.size, Config.alphaMax, Config.codeMax] at h3 h4 <;>
    unfold InBuffer <;> omega

/-- A taken write: a register's effect, or the bytes of a buffer unless BUSY = 1. -/
theorem hostWrite_next {s t : State} {off : BitVec 17} {n : Width} {v : Word}
    (h : hostWrite off n v s = .next t) :
    (∃ r, portTarget s.nIn off.toNat n = some (.reg r) ∧ t = writeReg r v s)
      ∨ (∃ b, portTarget s.nIn off.toNat n = some (.buf b)
          ∧ t = unlessBusy s (memWrite s off.toNat n.bytes v.toNat)) := by
  unfold hostWrite at h
  split at h
  · simp at h
  · next r hr => exact .inl ⟨r, hr, by simpa using h.symm⟩
  · next b hb => exact .inr ⟨b, hb, by simpa using h.symm⟩

/-- A taken read only adds to what the host has been given. -/
theorem hostRead_next {s t : State} {off : BitVec 17} {n : Width} (h : hostRead off n s = .next t) :
    ∃ d, t = { s with reads := ⟨off, n, d⟩ :: s.reads } := by
  unfold hostRead at h
  split at h
  · simp at h
  · split at h <;> exact ⟨_, by simpa [returnData] using h.symm⟩

@[simp] theorem storedValue_withRecords (off : Nat) (n : Width) (s : State) (rs : List ReadBack) (es : List Event)
    (tg : Target) : storedValue off n { s with events := es, reads := rs } tg = storedValue off n s tg := by
  cases tg with
  | reg r => cases r <;> rfl
  | buf b => exact congrArg (fun bs => BitVec.ofNat 32 (leNat bs)) (readBytes_congr fun _ _ => rfl)

/-- A taken read: the data it returns depends on the block and the draw, not on earlier reads or on what the order
brings later (R57). -/
theorem hostRead_taken (s : State) (off : BitVec 17) (n : Width) (h : PortTakes s.nIn off.toNat n) :
    ∃ d, ∀ es rs,
      hostRead off n { s with events := es, reads := rs } =
        .next { s with events := es, reads := ⟨off, n, d⟩ :: rs } := by
  obtain ⟨tg, ht⟩ := Option.isSome_iff_exists.1 ((portTarget_isSome_iff s.nIn off.toNat n).2 h)
  cases hb : (s.status.busy && tg.isResult) with
  | true => exact ⟨_, fun es rs => by simp [hostRead, ht, hb, returnData]; rfl⟩
  | false => exact ⟨_, fun es rs => by simp [hostRead, ht, hb, returnData]; rfl⟩

/-- A register's own offset, as the port carries it. -/
theorem portTarget_reg (nIn : Nat) (r : Reg) :
    portTarget nIn (BitVec.ofNat 17 r.offsetOf).toNat .word = some (.reg r) := by cases r <;> rfl

/-- A word write at a register's offset is that register's write effect (R54). -/
theorem hostWrite_reg (r : Reg) (v : Word) (s : State) :
    hostWrite (BitVec.ofNat 17 r.offsetOf) .word v s = .next (writeReg r v s) := by
  rw [hostWrite, portTarget_reg]

/-- A word read at a register's offset while BUSY = 0 returns its value (R54). -/
theorem hostRead_reg (r : Reg) {s : State} (h : s.status.busy = false) :
    hostRead (BitVec.ofNat 17 r.offsetOf) .word s =
      .next (returnData (BitVec.ofNat 17 r.offsetOf) .word (readReg r s) s) := by
  rw [hostRead, portTarget_reg]
  simp [h, storedValue]

end Sys2Proof.Machine
end

