-- ==== Sys2Proof/Laws/ShortCode.lean ====
section
/-! SUPPORT. The short-code unit's helpers: repeated symbols, symbol lookup, and the digits of a value. -/

namespace Sys2Proof.Machine

theorem hasDuplicate_eq_false {bs : List Byte} : hasDuplicate bs = false ↔ bs.Nodup := by
  induction bs with
  | nil => simp [hasDuplicate]
  | cons b bs ih => simp [hasDuplicate, List.nodup_cons, ih]

theorem indexOf_eq_none {c : Byte} {as : List Byte} : indexOf c as = none ↔ c ∉ as := by
  induction as with
  | nil => simp [indexOf]
  | cons a as ih =>
    by_cases h : a = c
    · simp [indexOf, h]
    · simp [indexOf, h, ih, Ne.symm h]

/-- In an alphabet without repeated symbols the lookup finds the one place of a symbol (R182). -/
theorem indexOf_eq_some {as : List Byte} (hn : as.Nodup) {k : Nat} (hk : k < as.length) :
    indexOf as[k] as = some k := by
  induction as generalizing k with
  | nil => simp at hk
  | cons a as ih =>
    have ⟨ha, hn⟩ := List.nodup_cons.1 hn
    cases k with
    | zero => simp [indexOf]
    | succ k =>
      have hk : k < as.length := by simpa using hk
      have hne : a ≠ as[k] := fun h => ha (h ▸ List.getElem_mem hk)
      simp [indexOf, hne, ih hn hk]

theorem digits_length_le (n fuel v : Nat) : (digits n fuel v).length ≤ fuel := by
  induction fuel generalizing v with
  | zero => simp [digits]
  | succ fuel ih =>
    simp only [digits]
    split
    · simp
    · simpa using ih (v / n)

/-- With enough fuel the repeated division gives the digits of the value. -/
theorem digits_eq_natDigits {n : Nat} (hn : 2 ≤ n) (fuel v : Nat) (h : v < n ^ fuel) :
    digits n fuel v = Nat.digits n v := by
  induction fuel generalizing v with
  | zero =>
    have : v = 0 := by simpa using h
    simp [digits, this]
  | succ fuel ih =>
    simp only [digits]
    split
    · next hv => simp [hv]
    · next hv =>
      rw [Nat.digits_def' (by omega) (by omega), ih]
      exact Nat.div_lt_of_lt_mul (by rwa [pow_succ, Nat.mul_comm] at h)

/-- A valid alphabet is one of 1 to 256 symbols without a repeated one (R172). -/
theorem validAlphabet_iff (s : State) :
    ValidAlphabet s ↔ 1 ≤ s.alen.toNat ∧ s.alen.toNat ≤ 256 ∧ (alphabet s).Nodup := by
  have hl : (alphabet s).length = s.alen.toNat := by simp [alphabet, radix]
  unfold ValidAlphabet
  refine and_congr_right fun _ => and_congr_right fun _ => ?_
  rw [List.nodup_iff_pairwise_ne, List.pairwise_iff_getElem]
  constructor
  · intro h i j hi hj hij
    simp only [alphabet, readBytes_getElem]
    exact h i j hij (hl ▸ hj)
  · intro h i j hij hj
    have := h i j (by omega) (by omega) hij
    simp only [alphabet, readBytes_getElem] at this
    exact this

/-- check_alphabet() raises nothing on a valid alphabet. -/
theorem alphabetFault_eq_none {s : State} (h : ValidAlphabet s) : alphabetFault s = none := by
  have ⟨h1, h2, hn⟩ := (validAlphabet_iff s).1 h
  unfold alphabetFault
  rw [if_neg (by unfold radix; omega), hasDuplicate_eq_false.2 hn]
  rfl

end Sys2Proof.Machine
end

