-- ==== Sys2Proof/Laws/Exec.lean ====
section
/-! SUPPORT. What the end of a command, a completion step and an event can do. -/

namespace Sys2Proof.Machine

/-! The lemmas of this section are proved over the state's fields (`cases s`) and not by `rfl` alone: simp then
rewrites with them, where it would otherwise ask the kernel to compare a hash's definition with itself. -/

@[simp] theorem conclude_ok (s t : State) : conclude s (.ok t) = .next (complete t) := by cases s; rfl

@[simp] theorem conclude_error (s : State) (c : Cause) : conclude s (.error c) = .next (raise c s) := by
  cases s; rfl

/-- A command always ends in a next state, by one of the two ways. -/
theorem conclude_cases (s : State) (r : Except Cause State) :
    (∃ t, r = .ok t ∧ conclude s r = .next (complete t)) ∨ (∃ c, r = .error c ∧ conclude s r = .next (raise c s)) := by
  cases r with
  | ok t => exact .inl ⟨t, rfl, rfl⟩
  | error c => exact .inr ⟨c, rfl, rfl⟩

/-- The completed state and the reported state in the words of Safety. -/
theorem complete_setResult (r0 r1 : DWord) (s : State) : complete (setResult r0 r1 s) = s.succeeded r0 r1 := by
  cases s; rfl

theorem raise_eq_failed (c : Cause) (s : State) : raise c s = s.failed c := by cases s; rfl

/-- The code ENCODE writes has between 1 and 64 symbols (R178). -/
theorem codeDigits_length (n v : Nat) : (codeDigits n v).length ≤ 64 ∧ 1 ≤ (codeDigits n v).length := by
  unfold codeDigits
  split
  · simp
  · next h =>
    have hle := digits_length_le n Config.codeMax v
    refine ⟨by simpa [Config.codeMax] using hle, ?_⟩
    simp [Config.codeMax, digits, h]

/-- How a command that writes RES0 and RES1 ends. -/
theorem conclude_setResult (s : State) (r0 r1 : DWord) :
    conclude s (.ok (setResult r0 r1 s)) = .next (s.succeeded r0 r1) := by cases s; rfl

theorem conclude_failed (s : State) (c : Cause) : conclude s (.error c) = .next (s.failed c) := by
  cases s; rfl

/-- What any command does: its results in RES0 and RES1, or ENCODE's code in CODEBUF, or the error report. -/
theorem exec_cases (i : Instr) (s : State) :
    (∃ r0 r1, i ≠ .encode ∧ exec i s = .next (s.succeeded r0 r1))
      ∨ (∃ code : List Byte, i = .encode ∧ 1 ≤ code.length ∧ code.length ≤ 64
          ∧ exec i s =
              .next (complete (setCodeLen (BitVec.ofNat 7 code.length) (writeBytes s Buffer.codebuf.base code))))
      ∨ (∃ c, exec i s = .next (s.failed c)) := by
  cases i with
  | rotl32 amt =>
    simp only [exec, execRotl32]
    split
    · exact .inr (.inr ⟨_, conclude_failed s _⟩)
    · exact .inl ⟨_, _, by simp, conclude_setResult s _ _⟩
  | rotl64 amt =>
    simp only [exec, execRotl64]
    split
    · exact .inr (.inr ⟨_, conclude_failed s _⟩)
    · exact .inl ⟨_, _, by simp, conclude_setResult s _ _⟩
  | fmix32 => exact .inl ⟨_, _, by simp, conclude_setResult s _ _⟩
  | fmix64 => exact .inl ⟨_, _, by simp, conclude_setResult s _ _⟩
  | hash32 =>
    simp only [exec, execHash32]
    split
    · exact .inl ⟨_, _, by simp, conclude_setResult s _ _⟩
    · exact .inr (.inr ⟨_, conclude_failed s _⟩)
  | hash128 =>
    simp only [exec, execHash128, hash128Into]
    split
    · exact .inl ⟨_, _, by simp, conclude_setResult s _ _⟩
    · exact .inr (.inr ⟨_, conclude_failed s _⟩)
  | hash128s =>
    simp only [exec, execHash128s, hash128Into]
    split
    · exact .inl ⟨_, _, by simp, conclude_setResult s _ _⟩
    · exact .inr (.inr ⟨_, conclude_failed s _⟩)
  | encode =>
    simp only [exec, execEncode, encodeInto]
    split
    · exact .inr (.inr ⟨_, conclude_failed s _⟩)
    · split
      · exact .inr (.inr ⟨_, conclude_failed s _⟩)
      · have h := codeDigits_length (radix s) s.opa.toNat
        refine .inr (.inl ⟨encodeCode s s.opa.toNat, by trivial, ?_, ?_, conclude_ok s _⟩)
        · simpa [encodeCode] using h.2
        · simpa [encodeCode] using h.1
  | decode =>
    simp only [exec, execDecode, decodeInto]
    split
    · exact .inr (.inr ⟨_, conclude_failed s _⟩)
    · split
      · exact .inr (.inr ⟨_, conclude_failed s _⟩)
      · split
        · exact .inr (.inr ⟨_, conclude_failed s _⟩)
        · exact .inl ⟨_, _, by simp, conclude_setResult s _ _⟩

/-- The engine's turn, in a next state, is nothing, a command, or the report of an illegal word. -/
theorem engineTurn_cases (s : State) :
    (s.status.busy = false ∧ engineTurn s = .next s)
      ∨ (s.status.busy = true ∧ ∃ i, decode s.cmd = .ok i ∧ engineTurn s = exec i s)
      ∨ (s.status.busy = true ∧ engineTurn s = .next (s.failed .illegalCmd)) := by
  unfold engineTurn completion
  cases hb : s.status.busy with
  | false => exact .inl ⟨rfl, by simp⟩
  | true =>
    cases hd : decode s.cmd with
    | ok i => exact .inr (.inl ⟨rfl, i, rfl, by simp⟩)
    | error r => exact .inr (.inr ⟨rfl, by simp [raise_eq_failed]⟩)

/-- A run of any machine goes on from its first step. -/
theorem run_succ_of_step (M : Host.Core) (k : Nat) (s t : M.State) (h : M.step s = .next t) :
    M.run (k + 1) s = M.run k t := by
  simp only [Host.Core.run, h]

/-- The same of this machine, in the words of `step`. -/
theorem core_run_succ (k : Nat) {s t : State} (h : step s = .next t) :
    Sys2Proof.core.run (k + 1) s = Sys2Proof.core.run k t := run_succ_of_step Sys2Proof.core k s t h

/-- All that a step can do. -/
theorem step_cases {s t : State} (h : step s = .next t) :
    (∃ u, (u = s ∨ ∃ e es, s.events = e :: es ∧ u = { s with events := es })
      ∧ ((s.rstIn = true ∧ (t = resetBlock u ∨ t = resetBlock { u with rstIn := false }))
        ∨ (s.rstIn = false
            ∧ (t = u ∨ t = freshDraw u ∨ t = resetBlock { u with rstIn := true } ∨ engineTurn u = .next t
              ∨ (∃ off n v, hostWrite off n v (freshDraw u) = .next t)
              ∨ (∃ off n, hostRead off n u = .next t))))) := by
  unfold step at h
  split at h
  · refine ⟨s, .inl rfl, ?_⟩
    unfold runQuiet at h
    cases hr : s.rstIn <;> simp only [hr] at h
    · exact .inr ⟨rfl, .inr (.inr (.inr (.inl (by simpa using h))))⟩
    · exact .inl ⟨rfl, .inl (by simpa using h.symm)⟩
  · next e es he =>
    refine ⟨{ s with events := es }, .inr ⟨e, es, he, rfl⟩, ?_⟩
    unfold runEvent at h
    cases hr : s.rstIn <;> simp only [hr] at h
    · refine .inr ⟨rfl, ?_⟩
      cases e with
      | delay => exact .inr (.inl (by simpa [eventInRun] using h.symm))
      | engine => exact .inr (.inr (.inr (.inl (by simpa [eventInRun] using h))))
      | write off n v => exact .inr (.inr (.inr (.inr (.inl ⟨off, n, v, by simpa [eventInRun] using h⟩))))
      | read off n => exact .inr (.inr (.inr (.inr (.inr ⟨off, n, by simpa [eventInRun] using h⟩))))
      | resetOn => exact .inr (.inr (.inl (by simpa [eventInRun] using h.symm)))
      | resetOff => exact .inl (by simpa [eventInRun] using h.symm)
    · refine .inl ⟨rfl, ?_⟩
      cases e with
      | write off n v => simp [eventInReset] at h
      | read off n => simp [eventInReset] at h
      | resetOff => exact .inr (by simpa [eventInReset] using h.symm)
      | delay => exact .inl (by simpa [eventInReset] using h.symm)
      | engine => exact .inl (by simpa [eventInReset] using h.symm)
      | resetOn => exact .inl (by simpa [eventInReset] using h.symm)

end Sys2Proof.Machine
end

