-- ==== Sys2Proof/Laws/PerInstr.lean ====
section
/-! SUPPORT. Facts about every command as syntax, one lemma a constructor. `Row`: the word of a well-formed
command matches its row of the opcode map under the row's mask (R84). -/

namespace Sys2Proof.Laws.Row

/-- The match and mask columns of R84. -/
def matchMask : Instr → Word × Word
  | .rotl32 _ => (0x00000001, 0xFFFF00FF)
  | .rotl64 _ => (0x00000002, 0xFFFF00FF)
  | .fmix32 => (0x00000003, 0xFFFFFFFF)
  | .fmix64 => (0x00000004, 0xFFFFFFFF)
  | .hash32 => (0x00000010, 0xFFFFFFFF)
  | .hash128 => (0x00000011, 0xFFFFFFFF)
  | .hash128s => (0x00010011, 0xFFFFFFFF)
  | .encode => (0x00000020, 0xFFFFFFFF)
  | .decode => (0x00000021, 0xFFFFFFFF)

def Statement (i : Instr) : Prop := i.wf = true → Sys2Proof.encode i &&& (matchMask i).2 = (matchMask i).1

/-- The rotates' mask drops the immediate and keeps the rest of the word. -/
theorem cmdFormat_rotate (imm op : BitVec 8) :
    cmdFormat 0 imm op &&& (0xFFFF00FF : Word) = cmdFormat 0 0 op := by
  refine BitVec.eq_of_getLsbD_eq fun k hk => ?_
  have hmask : (0xFFFF00FF : Word).getLsbD k = (decide (k < 8) || decide (16 ≤ k)) := by
    interval_cases k <;> decide
  rw [BitVec.getLsbD_and, hmask]
  simp only [cmdFormat, BitVec.getLsbD_append]
  by_cases h1 : k < 8
  · simp [h1]
  · by_cases h2 : k < 16
    · simp [h1, show ¬ 16 ≤ k by omega, show k - 8 < 8 by omega]
    · simp [h1, show 16 ≤ k by omega, show ¬ k - 8 < 8 by omega]

theorem rotl32 (amt : Nat) : Statement (.rotl32 amt) := fun _ => cmdFormat_rotate _ _
theorem rotl64 (amt : Nat) : Statement (.rotl64 amt) := fun _ => cmdFormat_rotate _ _
theorem fmix32 : Statement .fmix32 := fun _ => by decide
theorem fmix64 : Statement .fmix64 := fun _ => by decide
theorem hash32 : Statement .hash32 := fun _ => by decide
theorem hash128 : Statement .hash128 := fun _ => by decide
theorem hash128s : Statement .hash128s := fun _ => by decide
theorem encode : Statement .encode := fun _ => by decide
theorem decode : Statement .decode := fun _ => by decide

end Sys2Proof.Laws.Row
end

