-- ==== Sys2Proof/Tests/Slice0.lean ====
section
/-! SUPPORT. Tests: the well-formedness smoke test, words written out from spec/30_encoding.md R80 and R84, one
or two steps for each command with the expected values of spec/95_test_vectors.md, and, for each statement with
hypotheses, a witness that meets them. -/

namespace Sys2Proof.Tests

open Sys2Proof.Machine

/-! ### Well-formedness: the one check, and a term it refuses -/

theorem smoke_rotl32_amount_refused : (Instr.rotl32 256).wf = false := by decide
theorem smoke_rotl64_amount_refused : (Instr.rotl64 256).wf = false := by decide
theorem smoke_rotl32_amount_taken : (Instr.rotl32 255).wf = true := by decide
theorem smoke_assembler_refuses : (CommandText.command (.rotl32 256)).assemble = none := by decide

/-! ### Decoding: every row's word, bit by bit (R80: 15 reserved bits, S, IMM8, OP) -/

theorem test_decode_rotl32 : decode 0b00000000000000000001111100000001 = .ok (.rotl32 31) := by decide
theorem test_decode_rotl64 : decode 0b00000000000000001111111100000010 = .ok (.rotl64 255) := by decide
theorem test_decode_fmix32 : decode 0b00000000000000000000000000000011 = .ok .fmix32 := by decide
theorem test_decode_fmix64 : decode 0b00000000000000000000000000000100 = .ok .fmix64 := by decide
theorem test_decode_hash32 : decode 0b00000000000000000000000000010000 = .ok .hash32 := by decide
theorem test_decode_hash128 : decode 0b00000000000000000000000000010001 = .ok .hash128 := by decide
theorem test_decode_hash128s : decode 0b00000000000000010000000000010001 = .ok .hash128s := by decide
theorem test_decode_encode : decode 0b00000000000000000000000000100000 = .ok .encode := by decide
theorem test_decode_decode : decode 0b00000000000000000000000000100001 = .ok .decode := by decide
theorem test_decode_unassigned : decode 0x000000FF = .error .unknownOp := by decide
theorem test_decode_reserved : decode 0x00020003 = .error .reservedBits := by decide
theorem test_decode_immediate : decode 0x00000103 = .error .immediate := by decide
theorem test_decode_seed_select : decode 0x00010001 = .error .seedSelect := by decide
theorem test_decode_short : decodeBytes [0x03, 0x00, 0x00] = .error .length := by decide
theorem test_decode_table_word : decodeTableWord 32 0x00010011 = some .hash128s := by decide
theorem test_encode_word : encode (.rotl32 4) = 0x00000401 := by decide

/-! ### Commands -/

/-- RES0, RES1 and the STATUS word after one step. -/
def after (o : Result) : Option (DWord × DWord × Word) :=
  match o with
  | .next t => some (t.res0, t.res1, t.status.toWord)
  | .fault _ => none
  | .refused _ => none

/-- The code in CODEBUF[0..L-1] and the STATUS word after one step. -/
def codeAfter (o : Result) : Option (List Byte × Word) :=
  match o with
  | .next t => some (shortCode t, t.status.toWord)
  | .fault _ => none
  | .refused _ => none

/-- The step that performs the word `w` on `s`. -/
def perform (w : Nat) (s : State) : Result := step (s.withFetchWord 32 w)

/-- A block with this operand A. -/
def withOpa (v : DWord) : State := { State.reset with opa := v }

/-- A block with these bytes from INBUF[off] on, OFFSET, COUNT and SEED. -/
def withInput (off : Nat) (bs : List Byte) (seed : Word) : State :=
  writeBytes
    { State.reset with offset := BitVec.ofNat 32 off, count := BitVec.ofNat 32 bs.length, seed := seed }
    (0x10000 + off) bs

/-- A block with this alphabet, short code and operand A. -/
def withCode (alpha code : List Byte) (v : DWord) : State :=
  writeBytes
    (writeBytes
      { State.reset with
        alen := BitVec.ofNat 9 alpha.length, codeLen := BitVec.ofNat 7 code.length, opa := v }
      0x100 alpha)
    0x200 code

/-- "0123456789abcdef" -/
def hexAlphabet : List Byte :=
  [0x30, 0x31, 0x32, 0x33, 0x34, 0x35, 0x36, 0x37] ++ [0x38, 0x39, 0x61, 0x62, 0x63, 0x64, 0x65, 0x66]

/-- "test" -/
def testBytes : List Byte := [0x74, 0x65, 0x73, 0x74]

/-- V-MIX-05: OPA[63:32] is ignored. -/
theorem test_rotl32 : after (perform 0x00000F01 (withOpa 0xffffffff12345678)) = some (0x2b3c091a, 0, 0x2) := by
  decide

/-- V-MIX-06: the error report, results kept. -/
theorem test_rotl32_range :
    after (perform 0x00002001 { withOpa 0x12345678 with res0 := 7, res1 := 9 }) = some (7, 9, 0x216) := by
  decide

/-- V-MIX-12 -/
theorem test_rotl64 :
    after (perform 0x00002102 (withOpa 0x0123456789abcdef)) = some (0x13579bde02468acf, 0, 0x2) := by
  decide

/-- V-MIX-14 -/
theorem test_rotl64_range : after (perform 0x00004002 (withOpa 0x0123456789abcdef)) = some (0, 0, 0x216) := by
  decide

/-- V-MIX-18 -/
theorem test_fmix32 : after (perform 0x00000003 (withOpa 0x12345678)) = some (0xe37cd1bc, 0, 0x2) := by decide

/-- V-MIX-24 -/
theorem test_fmix64 :
    after (perform 0x00000004 (withOpa 0x0123456789abcdef)) = some (0x87cbfbfe89022cea, 0, 0x2) := by
  decide

/-- V-H32-11 "abcde": a block and a tail. -/
theorem test_hash32 :
    after (perform 0x00000010 (withInput 0 [0x61, 0x62, 0x63, 0x64, 0x65] 0)) = some (0xe89b9af6, 0, 0x2) := by
  decide

/-- V-H32-24: a bad offset even with COUNT = 0. -/
theorem test_hash32_range :
    after (perform 0x00000010 { State.reset with offset := 4097 }) = some (0, 0, 0x316) := by
  decide

/-- V-H128-11: a block and a tail of one byte. -/
theorem test_hash128 :
    after
        (perform 0x00000011
          (withInput 0 ([0, 1, 2, 3, 4, 5, 6, 7, 8] ++ [9, 10, 11, 12, 13, 14, 15, 16]) 0xffffffff)) =
      some (0x5c76f40f9fe7c20e, 0xc15f026b9edaa824, 0x2) := by
  decide

/-- V-H128-18 -/
theorem test_hash128s :
    after (perform 0x00010011 (withInput 0 testBytes 1)) = some (0xc3812fdf4d18f852, 0xc81a9057aa737aec, 0x2) := by
  decide

/-- V-ENC-15: "deadbeef". -/
theorem test_encode :
    codeAfter (perform 0x00000020 (withCode hexAlphabet [] 0xdeadbeef)) =
      some ([0x64, 0x65, 0x61, 0x64, 0x62, 0x65, 0x65, 0x66], 0x2) := by
  decide

/-- V-ENC-20: a repeated symbol. -/
theorem test_encode_duplicate :
    codeAfter (perform 0x00000020 (withCode [0x61, 0x62, 0x61] [] 5)) = some ([], 0x516) := by
  decide

/-- "ff" in radix 16 by the pseudocode of R180. -/
theorem test_decode :
    after (perform 0x00000021 (withCode hexAlphabet [0x66, 0x66] 0)) = some (0xff, 0, 0x2) := by
  decide

/-- As V-DEC-10: a symbol outside the alphabet. -/
theorem test_decode_symbol :
    after (perform 0x00000021 (withCode hexAlphabet [0x61, 0x21] 0)) = some (0, 0, 0x816) := by
  decide

/-- P4: an illegal word. -/
theorem test_illegal : after (perform 0x00000005 State.reset) = some (0, 0, 0x116) := by decide

/-! ### The host port -/

/-- The state after one host access. -/
def taken (o : Result) : State :=
  match o with
  | .next t => t
  | .fault _ => State.reset
  | .refused _ => State.reset

/-- R63: HostWrite(0x10000, 4, 0x74736574) stores "test". -/
theorem test_write_inbuf :
    readBytes (taken (hostWrite 0x10000 .word 0x74736574 State.reset)) 0x10000 4 = testBytes := by
  decide

/-- R52: a misaligned register access. -/
theorem test_bus_error : ∃ o, hostWrite 0x012 .word 1 State.reset = o ∧ o = .fault (.busError 0x012 .word) :=
  ⟨_, rfl, rfl⟩

/-- The digest of V-H128-05 (step traces): DIGEST0 reads 0xcc287dac. -/
theorem test_digest :
    readReg .digest0 { State.reset with res0 := 0xac7d28cc74bde19d, res1 := 0x9a128231f9bd4d82 } = 0xcc287dac := by
  decide

/-- The last word of the same digest. -/
theorem test_digest_last :
    readReg .digest3 { State.reset with res0 := 0xac7d28cc74bde19d, res1 := 0x9a128231f9bd4d82 } = 0x824dbdf9 := by
  decide

/-- P5 (b): a write while BUSY is lost and recorded. -/
theorem test_dropped_write :
    (taken (hostWrite 0x020 .word 2 (issue 3 (withOpa 1)))).opa = 1
      ∧ (taken (hostWrite 0x020 .word 2 (issue 3 (withOpa 1)))).status.wbusy = true := by
  decide

/-- R90: `clear` of P3 leaves STATUS 0. -/
theorem test_clear :
    (taken (hostWrite 0x008 .word 0x0000000E (raise .rotRange State.reset))).status.toWord = 0 := by
  decide

/-- R90: the expansions of `issue` and `ld64`. -/
theorem test_pseudo :
    issueStmt (.command .hash32) = some [.wr .cmd 0x00000010]
      ∧ ld64Stmt .opaLo .opaHi 0xAC7D28CC74BDE19D = [.wr .opaLo 0x74BDE19D, .wr .opaHi 0xAC7D28CC] := by
  decide

/-! ### Witnesses: states that meet the hypotheses of the statements -/

/-- A pending FMIX32 with a write of OPA_LO before the engine's step. -/
def pending : State :=
  { issue 3 (withOpa 1) with events := [.write 0x020 .word 2, .delay, .read 0x008 .word, .engine] }

/-- The radix-2 alphabet "01" with the code "10" and OPA = 2. -/
def binary : State := withCode [0x30, 0x31] [0x31, 0x30] 2

/-- The same block with the code "010". -/
def binaryLeading : State := withCode [0x30, 0x31] [0x30, 0x31, 0x30] 2

/-- The one-symbol alphabet "x" with the code "xxx". -/
def unary : State := withCode [0x78] [0x78, 0x78, 0x78] 0

/-- The hexadecimal alphabet with the code "1" and sixteen zeros, which stands for 16^16 = 2^64. -/
def seventeen : State :=
  withCode hexAlphabet ([0x31, 0x30, 0x30, 0x30, 0x30, 0x30, 0x30, 0x30, 0x30] ++
    [0x30, 0x30, 0x30, 0x30, 0x30, 0x30, 0x30, 0x30]) 0

theorem binary_valid : ValidAlphabet binary := (validAlphabet_iff _).2 (by decide)
theorem binaryLeading_valid : ValidAlphabet binaryLeading := (validAlphabet_iff _).2 (by decide)
theorem unary_valid : ValidAlphabet unary := (validAlphabet_iff _).2 (by decide)
theorem hex_valid : ValidAlphabet seventeen := (validAlphabet_iff _).2 (by decide)

theorem witness_DecodeOfEncode : (Instr.rotl32 255).wf = true ∧ (Instr.rotl64 0).wf = true := by decide

theorem witness_EncodeOfDecode :
    decode 0x0000FF02 = .ok (.rotl64 255) ∧ decodeBytes [0x11, 0x00, 0x01, 0x00] = .ok .hash128s := by decide

theorem witness_RotateAmountIsImm8 :
    decode 0x0000FF01 = .ok (.rotl32 255) ∧ decode 0x00000002 = .ok (.rotl64 0) ∧ 31 < 32 ∧ 63 < 64
      ∧ (32 ≤ 32 ∧ 32 ≤ 255) ∧ (64 ≤ 255 ∧ 255 ≤ 255) := by decide

theorem witness_AssemblerWords : (0 ≤ 255 ∧ 255 ≤ 255 ∧ 256 > 255) ∧ (32 ≤ 32 ∧ 64 ≤ 64) := by decide

/-- One illegal word of each kind, and an idle block. -/
theorem witness_IllegalWordsStoredAndReported :
    (∀ i, decode 0x00000005 ≠ .ok i) ∧ (∀ i, decode 0x80000003 ≠ .ok i) ∧ (∀ i, decode 0x00000110 ≠ .ok i)
      ∧ (∀ i, decode 0x00010002 ≠ .ok i) ∧ State.reset.status.busy = false := by
  have h1 : decode 0x00000005 = .error .unknownOp := by decide
  have h2 : decode 0x80000003 = .error .reservedBits := by decide
  have h3 : decode 0x00000110 = .error .immediate := by decide
  have h4 : decode 0x00010002 = .error .seedSelect := by decide
  simp only [h1, h2, h3, h4]
  exact ⟨nofun, nofun, nofun, nofun, rfl⟩

theorem witness_StepRunsDecodedCommand :
    (∃ s : State, s.rstIn = false ∧ s.status.busy = true ∧ decode s.cmd = .ok .fmix32
        ∧ s.events = [.engine, .delay])
      ∧ (∃ s : State, s.rstIn = false ∧ s.status.busy = true ∧ decode s.cmd = .ok .fmix32 ∧ s.events = [])
      ∧ (0x00010011 < 2 ^ 32 ∧ decode (BitVec.ofNat 32 0x00010011) = .ok .hash128s) :=
  ⟨⟨{ issue 3 State.reset with events := [.engine, .delay] }, by decide⟩, ⟨issue 3 State.reset, by decide⟩,
    by decide⟩

/-- The other clauses: an illegal word, an idle block, a delay and a release of a reset that is not asserted. -/
theorem witness_StepRunsDecodedCommand_others :
    (∃ s : State, s.rstIn = false ∧ s.status.busy = true ∧ decode s.cmd = .error .unknownOp
        ∧ s.events = [.engine])
      ∧ (∃ s : State, s.rstIn = false ∧ s.status.busy = true ∧ decode s.cmd = .error .unknownOp ∧ s.events = [])
      ∧ (∃ s : State, s.rstIn = false ∧ s.status.busy = false ∧ s.events = [.engine])
      ∧ (State.reset.rstIn = false ∧ State.reset.status.busy = false ∧ State.reset.events = [])
      ∧ (∃ s : State, s.rstIn = false ∧ s.events = [.delay])
      ∧ ∃ s : State, s.rstIn = false ∧ s.events = [.resetOff] :=
  ⟨⟨{ issue 5 State.reset with events := [.engine] }, by decide⟩, ⟨issue 5 State.reset, by decide⟩,
    ⟨{ State.reset with events := [.engine] }, by decide⟩, by decide,
    ⟨{ State.reset with events := [.delay] }, by decide⟩, ⟨{ State.reset with events := [.resetOff] }, by decide⟩⟩

theorem witness_StepTakesOneHostAccess :
    (pending.rstIn = false ∧ ∃ es, pending.events = .write 0x020 .word 2 :: es)
      ∧ ∃ s : State, s.rstIn = false ∧ ∃ es, s.events = .read 0x008 .word :: es :=
  ⟨⟨rfl, _, rfl⟩, { State.reset with events := [.read 0x008 .word] }, rfl, _, rfl⟩

theorem witness_Rotl32Result : (0 < 32 ∧ 31 < 32) ∧ 32 ≤ 32 ∧ (0 ≤ 255 ∧ 255 ≤ 255) := by decide
theorem witness_Rotl64Result : (0 < 64 ∧ 63 < 64) ∧ 64 ≤ 64 ∧ (0 ≤ 255 ∧ 255 ≤ 255) := by decide

theorem witness_Fmix32Result :
    (withOpa 0xffffffff00000000).opa.toNat % 2 ^ 32 = 0 ∧ (withOpa 0xffffffff00000001).opa.toNat % 2 ^ 32 = 1 := by
  decide

theorem witness_Fmix64Result : (withOpa 0).opa = 0 ∧ (withOpa 1).opa = 1 := by decide

theorem witness_Fmix32Bijective : (withOpa 1).opa.setWidth 32 ≠ (withOpa 2).opa.setWidth 32 := by decide

/-- A slice that ends at the end of INBUF, and one that ends a byte after it. -/
theorem witness_hash_slices :
    (let s := { State.reset with offset := 4092, count := 4 }
     s.offset.toNat + s.count.toNat ≤ s.nIn)
      ∧ (let s := { State.reset with offset := 4093, count := 4 }
         s.offset.toNat + s.count.toNat > s.nIn)
      ∧ (let s := { State.reset with offset := 0xFFFFFFFF, count := 2 }
         s.offset.toNat + s.count.toNat > s.nIn)
      ∧ State.reset.seed = 0 := by
  decide

/-- Unequal offsets, equal bytes. -/
theorem witness_HashDependsOnSliceOnly :
    let s := withInput 0 testBytes 1
    let t := withInput 3 testBytes 1
    s.offset.toNat + s.count.toNat ≤ s.nIn ∧ t.offset.toNat + t.count.toNat ≤ t.nIn ∧ s.count = t.count
      ∧ s.seed = t.seed
      ∧ ∀ j, j < s.count.toNat →
          readByte s (0x10000 + s.offset.toNat + j) = readByte t (0x10000 + t.offset.toNat + j) := by
  decide

theorem witness_EmptyInputHashes :
    let s := { State.reset with offset := 4096, seed := 1 }
    s.count = 0 ∧ s.offset.toNat ≤ s.nIn := by
  decide

theorem witness_EncodeResult :
    (ValidAlphabet binary ∧ (binary.alen.toNat = 1 → binary.opa = 0))
      ∧ (ValidAlphabet unary ∧ (unary.alen.toNat = 1 → unary.opa = 0)) :=
  ⟨⟨binary_valid, by decide⟩, unary_valid, by decide⟩

theorem witness_EncodeErrors :
    (State.reset.alen.toNat = 0) ∧ (256 < { State.reset with alen := 257 }.alen.toNat)
      ∧ (let s := withCode [0x61, 0x62, 0x61] [] 0
         1 ≤ s.alen.toNat ∧ s.alen.toNat ≤ 256
          ∧ (0 < 2 ∧ 2 < s.alen.toNat ∧ readByte s (0x100 + 0) = readByte s (0x100 + 2)))
      ∧ ({ unary with opa := 1 }.alen.toNat = 1 ∧ { unary with opa := 1 }.opa ≠ 0) := by
  decide

theorem witness_EncodeCanonical : ValidAlphabet binary ∧ 2 ≤ binary.alen.toNat ∧ binary.opa ≠ 0 :=
  ⟨binary_valid, by decide⟩

theorem witness_EncodeLength : ValidAlphabet binary ∧ 2 ≤ binary.alen.toNat := ⟨binary_valid, by decide⟩

theorem binary_places : PlacesOf binary [1, 0] := by unfold PlacesOf; decide

theorem witness_DecodeResult :
    ValidAlphabet binary ∧ [1, 0].length = binary.codeLen.toNat ∧ 1 ≤ binary.codeLen.toNat
      ∧ binary.codeLen.toNat ≤ 64 ∧ PlacesOf binary [1, 0]
      ∧ positional binary.alen.toNat [1, 0] ≤ 2 ^ 64 - 1 :=
  ⟨binary_valid, by decide, by decide, by decide, binary_places, by decide⟩

theorem seventeen_places : PlacesOf seventeen (1 :: List.replicate 15 0) := by unfold PlacesOf; decide

/-- An empty and a too long code; then a first symbol outside the alphabet; then a seventeenth digit that takes
1 followed by zeros past 2^64 - 1. -/
theorem witness_DecodeErrors :
    (ValidAlphabet { binary with codeLen := 0 } ∧ { binary with codeLen := 0 }.codeLen.toNat = 0)
      ∧ (ValidAlphabet { binary with codeLen := 65 } ∧ 64 < { binary with codeLen := 65 }.codeLen.toNat)
      ∧ (let s := withCode [0x30, 0x31] [0x32] 0
         s.codeLen.toNat ≤ 64 ∧ ([] : List Nat).length < s.codeLen.toNat
          ∧ ∀ d, d < s.alen.toNat → readByte s (0x100 + d) ≠ readByte s (0x200 + 0))
      ∧ (seventeen.codeLen.toNat ≤ 64 ∧ (1 :: List.replicate 15 0).length < seventeen.codeLen.toNat
          ∧ PlacesOf seventeen (1 :: List.replicate 15 0)
          ∧ positional seventeen.alen.toNat (1 :: List.replicate 15 0) ≤ 2 ^ 64 - 1
          ∧ readByte seventeen (0x100 + 0) = readByte seventeen (0x200 + 16)
          ∧ positional seventeen.alen.toNat ((1 :: List.replicate 15 0) ++ [0]) > 2 ^ 64 - 1) :=
  ⟨⟨(validAlphabet_iff _).2 (by decide), by decide⟩, ⟨(validAlphabet_iff _).2 (by decide), by decide⟩,
    by decide, by decide, by decide, seventeen_places, by decide, by decide, by decide⟩

/-- The block that ENCODE leaves is itself one that DECODE can follow on. -/
theorem witness_EncodeThenDecodeRoundTrip :
    ValidAlphabet binary ∧ 2 ≤ binary.alen.toNat
      ∧ ∃ t, exec .encode binary = .next t ∧ t.alen = binary.alen
        ∧ ∀ j, j < binary.alen.toNat → readByte t (0x100 + j) = readByte binary (0x100 + j) :=
  ⟨binary_valid, by decide, _, rfl, by decide, by decide⟩

theorem witness_DecodeAcceptsLeadingFirstSymbol :
    ValidAlphabet binary ∧ 1 ≤ binary.codeLen.toNat ∧ binary.codeLen.toNat ≤ 63
      ∧ exec .decode binary = .next (binary.succeeded 2 0) ∧ binary.status.err = false
      ∧ binaryLeading.alen = binary.alen ∧ binaryLeading.codeLen.toNat = binary.codeLen.toNat + 1
      ∧ (∀ j, j < binary.alen.toNat → readByte binaryLeading (0x100 + j) = readByte binary (0x100 + j))
      ∧ readByte binaryLeading 0x200 = readByte binary 0x100
      ∧ ∀ j, j < binary.codeLen.toNat → readByte binaryLeading (0x201 + j) = readByte binary (0x200 + j) :=
  ⟨binary_valid, by decide, by decide, rfl, by decide, by decide, by decide, by decide, by decide, by decide⟩

theorem witness_CompletionPreciseAndTotal : pending.status.busy = true ∧ pending.status.err = false := by decide

theorem witness_CausesByCommand :
    State.reset.status.err = false
      ∧ ∃ t, exec (.rotl32 32) State.reset = .next t ∧ t.status.err = true ∧ t.status.errCause = some .rotRange :=
  ⟨rfl, _, rfl, rfl, rfl⟩

theorem witness_ResultCommandsFrame : (∃ t, exec .hash128 State.reset = .next t) ∧ Instr.hash128 ≠ .encode :=
  ⟨⟨_, rfl⟩, by decide⟩

theorem witness_EncodeFrame : (∃ t, exec .encode binary = .next t) ∧ ∃ t, exec .encode State.reset = .next t :=
  ⟨⟨_, rfl⟩, _, rfl⟩

/-- Two blocks that differ outside the operand state. -/
theorem witness_CommandsArePure :
    SameOperands binary { binary with res0 := 5, ie := true } ∧ binary.status.err = false
      ∧ { binary with res0 := 5, ie := true }.status.err = false :=
  ⟨⟨rfl, rfl, rfl, rfl, rfl, rfl, rfl, fun _ => readByte_congr rfl rfl _⟩, rfl, rfl⟩

/-- Accesses at the ends of each region, taken and not. -/
theorem witness_BusErrorsExactly :
    (PortTakes 4096 0x04C .word ∧ PortTakes 4096 0x100 .byte ∧ PortTakes 4096 0x1FC .word
        ∧ PortTakes 4096 0x23E .half ∧ PortTakes 4096 0x10000 .word ∧ PortTakes 4096 0x10FFF .byte)
      ∧ (¬ PortTakes 4096 0x050 .word ∧ ¬ PortTakes 4096 0x000 .half ∧ ¬ PortTakes 4096 0x240 .byte
        ∧ ¬ PortTakes 4096 0x101 .half ∧ ¬ PortTakes 4096 0x11000 .byte) := by
  refine ⟨⟨?_, ?_, ?_, ?_, ?_, ?_⟩, ?_, ?_, ?_, ?_, ?_⟩ <;> (unfold PortTakes; decide)

theorem witness_BufferLanesLittleEndian :
    PortTakes State.reset.nIn (0x10FFE : BitVec 17).toNat .half ∧ 0x100 ≤ (0x10FFE : BitVec 17).toNat
      ∧ State.reset.status.busy = false := by
  unfold PortTakes; decide

theorem witness_idle : State.reset.status.busy = false := by decide

/-- IssueOnCommandWrite: an idle and a busy block. -/
theorem witness_IssueOnCommandWrite : State.reset.status.busy = false ∧ pending.status.busy = true := by decide

/-- InputRegistersStoreTheirBits: a CTRL write without SRST, to an idle block. -/
theorem witness_InputRegistersStoreTheirBits :
    State.reset.status.busy = false ∧ (0xFFFFFFFD : Word).getLsbD 1 = false
      ∧ (0x04C : BitVec 17) ∈
          [(0x000 : BitVec 17), 0x028, 0x02C, 0x030, 0x034, 0x03C, 0x040, 0x044, 0x048, 0x04C] := by
  decide

theorem witness_DigestBigEndian : State.reset.status.busy = false ∧ (3 < 4 ∧ 3 < 4) ∧ (0 < 4 ∧ 0 < 4) := by decide

theorem witness_WritesWhileBusyDropped :
    pending.status.busy = true ∧ PortTakes pending.nIn (0x00C : BitVec 17).toNat .word
      ∧ PortTakes pending.nIn (0x1FF : BitVec 17).toNat .byte
      ∧ PortTakes pending.nIn (0x04C : BitVec 17).toNat .word
      ∧ PortTakes pending.nIn (0x004 : BitVec 17).toNat .word ∧ (1 : Word).getLsbD 1 = false
      ∧ (2 : Word).getLsbD 1 = true
      ∧ PortTakes pending.nIn (0x008 : BitVec 17).toNat .word := by
  unfold PortTakes; decide

theorem witness_ReadsChangeNothing :
    PortTakes pending.nIn (0x03C : BitVec 17).toNat .word ∧ PortTakes pending.nIn (0x100 : BitVec 17).toNat .word
      ∧ PortTakes pending.nIn (0x10000 : BitVec 17).toNat .byte := by
  unfold PortTakes; decide

theorem witness_BusyResultReadsAreDraws :
    pending.status.busy = true ∧ { pending with res0 := 5 }.status.busy = true
      ∧ PortTakes pending.nIn (0x038 : BitVec 17).toNat .word
      ∧ PortTakes pending.nIn (0x23F : BitVec 17).toNat .byte
      ∧ pending.draws = { pending with res0 := 5 }.draws := by
  unfold PortTakes; decide

theorem witness_DoneObservedThenResultsFinal :
    (complete State.reset).status.Legal
      ∧ ∃ t, hostRead 0x008 .word (complete State.reset) = .next t
        ∧ ∃ r rs, t.reads = r :: rs ∧ r.data.getLsbD 1 = true :=
  ⟨by decide, _, rfl, _, _, rfl, by decide⟩

theorem witness_IrqLevel :
    pending.status.Legal ∧ pending.status.busy = true ∧ (∃ t, engineTurn pending = .next t)
      ∧ (1 : Word).getLsbD 1 = false ∧ (2 : Word).getLsbD 1 = true :=
  ⟨by decide, by decide, ⟨_, rfl⟩, by decide, by decide⟩

theorem witness_SoftReset : (0xFFFFFFFF : Word).getLsbD 1 = true := by decide

theorem witness_HardwareReset :
    (∃ s : State, ∃ es, s.events = .resetOn :: es)
      ∧ (∃ s : State, s.rstIn = true ∧ s.events = [])
      ∧ (∃ s : State, ∃ es, s.rstIn = true ∧ s.events = .engine :: es)
      ∧ (∃ s : State, ∃ es, s.rstIn = true ∧ s.events = .delay :: es)
      ∧ (∃ s : State, ∃ es, s.rstIn = true ∧ s.events = .write 0x00C .word 3 :: es)
      ∧ (∃ s : State, ∃ es, s.rstIn = true ∧ s.events = .read 0x008 .word :: es)
      ∧ ∃ s : State, ∃ es, s.rstIn = true ∧ s.events = .resetOff :: es :=
  ⟨⟨{ pending with events := [.resetOn] }, _, rfl⟩, ⟨{ State.reset with rstIn := true }, rfl, rfl⟩,
    ⟨{ State.reset with rstIn := true, events := [.engine] }, _, rfl, rfl⟩,
    ⟨{ State.reset with rstIn := true, events := [.delay] }, _, rfl, rfl⟩,
    ⟨{ State.reset with rstIn := true, events := [.write 0x00C .word 3] }, _, rfl, rfl⟩,
    ⟨{ State.reset with rstIn := true, events := [.read 0x008 .word] }, _, rfl, rfl⟩,
    ⟨{ State.reset with rstIn := true, events := [.resetOff] }, _, rfl, rfl⟩⟩

/-- A state with a pending ENCODE that meets the invariant and steps on. -/
theorem witness_StepKeepsInvariant :
    (issue 0x20 binary).Inv ∧ ∃ t, step (issue 0x20 binary) = .next t :=
  ⟨by decide, _, rfl⟩

theorem witness_ParameterConstant : ∃ t, step { State.reset with nIn := 64 } = .next t := ⟨_, rfl⟩

theorem witness_OperandsHeldWhileBusy :
    pending.status.busy = true ∧ pending.rstIn = false
      ∧ Event.Plain pending.nIn (.write 0x020 .word 2) ∧ Event.write 0x020 .word 2 ≠ .engine
      ∧ ∃ t, runEvent (.write 0x020 .word 2) pending = .next t := by
  refine ⟨by decide, by decide, ?_, by decide, _, rfl⟩
  unfold Event.Plain PortTakes
  decide

theorem witness_PendingCommandCompletes :
    pending.status.busy = true ∧ pending.rstIn = false ∧ ∀ e ∈ pending.events, Event.Plain pending.nIn e := by
  refine ⟨by decide, by decide, fun e he => ?_⟩
  simp only [pending, List.mem_cons, List.not_mem_nil, or_false] at he
  rcases he with rfl | rfl | rfl | rfl <;> simp [Event.Plain, PortTakes, Width.bytes]

/-- Two result reads of a busy block with a read of CODEBUF and one of STATUS between them. -/
theorem witness_RepeatedReadsAgree :
    ∃ s : State, s.rstIn = false ∧ s.status.busy = true ∧ PortTakes s.nIn (0x028 : BitVec 17).toNat .word
      ∧ (∀ r ∈ [((0x23F : BitVec 17), Width.byte), (0x008, .word)], PortTakes s.nIn r.1.toNat r.2)
      ∧ s.events =
          .read 0x028 .word ::
            ([((0x23F : BitVec 17), Width.byte), (0x008, .word)].map (fun r => .read r.1 r.2)
              ++ .read 0x028 .word :: [.engine]) := by
  refine ⟨{ pending with
    events := [.read 0x028 .word, .read 0x23F .byte, .read 0x008 .word, .read 0x028 .word, .engine] },
    rfl, rfl, ?_, ?_, rfl⟩ <;> (unfold PortTakes; decide)

/-- A buffer write, an acknowledgement and a soft reset, each taken. -/
theorem witness_WritesAreIdempotent :
    (∃ t, hostWrite 0x10FFC .word 7 State.reset = .next t) ∧ (0x10FFC : BitVec 17) ≠ 0x00C
      ∧ (∃ t, hostWrite 0x008 .word 0xE pending = .next t)
      ∧ (∃ t, hostWrite 0x004 .word 2 pending = .next t) ∧ (2 : Word).getLsbD 1 = true :=
  ⟨⟨_, rfl⟩, by decide, ⟨_, rfl⟩, ⟨_, rfl⟩, by decide⟩

end Sys2Proof.Tests
end

section
/-! PROOFS. What a command computes from the block depends on its operands only: the hash input and the hashes over
it (spec/41_hash32.md, spec/42_hash128.md), the alphabet and the code (spec/43_short_code.md), and then every
command's ending (spec/00_scope.md R17). -/

namespace Sys2Proof.Machine

/-! ### The hashes read their slice and nothing else -/

section Slice

variable {s t : State} {a b n : Nat}

theorem memRead_congr (w : Nat) (h : ∀ j, j < n → readByte s (a + j) = readByte t (b + j)) :
    memRead w s a n = memRead w t b n := by
  simp only [memRead, readBytes_congr h]

theorem body32_congr (h : ∀ j, j < 4 * n → readByte s (a + j) = readByte t (b + j)) (seed : Word) :
    body32 s a n seed = body32 t b n seed := by
  refine List.foldl_ext _ _ _ fun h1 i hi => ?_
  have hi : i < n := List.mem_range.1 hi
  rw [memRead_congr 32 fun j hj => ?_]
  simpa only [Nat.add_assoc] using h (4 * i + j) (by omega)

theorem tailWord32_congr (h : ∀ j, j < n → readByte s (a + j) = readByte t (b + j)) :
    tailWord32 s a n = tailWord32 t b n := by
  have h0 : n ≥ 1 → readByte s a = readByte t b := h 0
  have h1 : n ≥ 2 → readByte s (a + 1) = readByte t (b + 1) := h 1
  have h2 : n ≥ 3 → readByte s (a + 2) = readByte t (b + 2) := h 2
  simp +contextual only [tailWord32, h0, h1, h2]

theorem tail32_congr (h : ∀ j, j < n → readByte s (a + j) = readByte t (b + j)) (h1 : Word) :
    tail32 s a n h1 = tail32 t b n h1 := by
  simp only [tail32, tailWord32_congr h]

/-- HASH32's result depends on the `n` bytes of the slice and the seed, wherever the slice stands (R121 to R124). -/
theorem hash32_congr (h : ∀ j, j < n → readByte s (a + j) = readByte t (b + j)) (seed : Word) :
    hash32 s a n seed = hash32 t b n seed := by
  have hbody := body32_congr (n := n / 4) (fun j hj => h j (by omega)) seed
  have htail := tail32_congr (s := s) (t := t) (a := a + 4 * (n / 4)) (b := b + 4 * (n / 4)) (n := n % 4)
    fun j hj => by simpa only [Nat.add_assoc] using h (4 * (n / 4) + j) (by omega)
  simp only [hash32, hbody, htail]

theorem body128_congr (h : ∀ j, j < 16 * n → readByte s (a + j) = readByte t (b + j)) (seed : DWord) :
    body128 s a n seed = body128 t b n seed := by
  refine List.foldl_ext _ _ _ fun hs i hi => ?_
  have hi : i < n := List.mem_range.1 hi
  have hk1 : memRead 64 s (a + 16 * i) 8 = memRead 64 t (b + 16 * i) 8 :=
    memRead_congr 64 fun j hj => by simpa only [Nat.add_assoc] using h (16 * i + j) (by omega)
  have hk2 : memRead 64 s (a + 16 * i + 8) 8 = memRead 64 t (b + 16 * i + 8) 8 :=
    memRead_congr 64 fun j hj => by simpa only [Nat.add_assoc] using h (16 * i + (8 + j)) (by omega)
  rw [hk1, hk2]

theorem tailWord64_congr (h : ∀ j, j < n → readByte s (a + j) = readByte t (b + j)) :
    tailWord64 s a n = tailWord64 t b n := by
  induction n with
  | zero => rfl
  | succ n ih => rw [tailWord64, tailWord64, ih fun j hj => h j (by omega), h n (by omega)]

theorem tail128_congr (h : ∀ j, j < n → readByte s (a + j) = readByte t (b + j)) (hs : DWord × DWord) :
    tail128 s a n hs = tail128 t b n hs := by
  have hk1 : tailWord64 s a (min n 8) = tailWord64 t b (min n 8) :=
    tailWord64_congr fun j hj => h j (by omega)
  have hk2 : tailWord64 s (a + 8) (n - 8) = tailWord64 t (b + 8) (n - 8) :=
    tailWord64_congr fun j hj => by simpa only [Nat.add_assoc] using h (8 + j) (by omega)
  simp only [tail128, hk1, hk2]

/-- The 128-bit hash depends on the `n` bytes of the slice and the seed, wherever the slice stands (R141 to
R146). -/
theorem hash128_congr (h : ∀ j, j < n → readByte s (a + j) = readByte t (b + j)) (seed : DWord) :
    hash128 s a n seed = hash128 t b n seed := by
  have hbody := body128_congr (n := n / 16) (fun j hj => h j (by omega)) seed
  have htail := tail128_congr (s := s) (t := t) (a := a + 16 * (n / 16)) (b := b + 16 * (n / 16)) (n := n % 16)
    fun j hj => by simpa only [Nat.add_assoc] using h (16 * (n / 16) + j) (by omega)
  simp only [hash128, hbody, htail]

end Slice

/-! ### The operands of two blocks with the same operand state

Each equation rewrites what is read of `t` into what is read of `s`. -/

section Operands

variable {s t : State}

theorem SameBytes.readBytes (h : SameBytes s t) (off n : Nat) : readBytes t off n = readBytes s off n :=
  readBytes_congr fun j _ => h (off + j)

/-- Blocks keep reading alike where the store and the reset number do not change. -/
theorem SameBytes.of_sameStore {s' t' : State} (h : SameBytes s t) (hs : s'.mem = s.mem) (hse : s'.epoch = s.epoch)
    (ht : t'.mem = t.mem) (hte : t'.epoch = t.epoch) : SameBytes s' t' := fun off => by
  rw [readByte_congr ht hte, readByte_congr hs hse, h off]

/-- The same bytes written to both blocks leave them reading alike. -/
theorem SameBytes.writeBytes (h : SameBytes s t) (off : Nat) (bs : List Byte) :
    SameBytes (writeBytes s off bs) (writeBytes t off bs) := by
  intro a
  by_cases hin : off ≤ a ∧ a < off + bs.length
  · obtain ⟨j, rfl⟩ := Nat.exists_eq_add_of_le hin.1
    have hj : j < bs.length := by omega
    rw [readByte_writeBytes_inside _ _ _ _ hj, readByte_writeBytes_inside _ _ _ _ hj]
  · have hout : a < off ∨ off + bs.length ≤ a := by omega
    rw [readByte_writeBytes_outside _ _ _ _ hout, readByte_writeBytes_outside _ _ _ _ hout, h a]

theorem SameOperands.seed (h : SameOperands s t) : t.seed = s.seed := by
  obtain ⟨hseed, -⟩ := h
  exact hseed

theorem SameOperands.opa (h : SameOperands s t) : t.opa = s.opa := by
  obtain ⟨-, -, -, -, hopa, -⟩ := h
  exact hopa

theorem SameOperands.codeLen (h : SameOperands s t) : t.codeLen = s.codeLen := by
  obtain ⟨-, -, -, -, -, hcodeLen, -⟩ := h
  exact hcodeLen

theorem SameOperands.bytes (h : SameOperands s t) : SameBytes s t := by
  obtain ⟨-, -, -, -, -, -, -, hbytes⟩ := h
  exact hbytes

theorem SameOperands.opa32 (h : SameOperands s t) : opa32 t = opa32 s := by
  rw [Machine.opa32, h.opa, Machine.opa32]

theorem SameOperands.seed64 (h : SameOperands s t) : seed64 t = seed64 s := by
  rw [Machine.seed64, h.seed, Machine.seed64]

theorem SameOperands.slice (h : SameOperands s t) :
    sliceBase t = sliceBase s ∧ sliceLen t = sliceLen s ∧ sliceInRange t = sliceInRange s := by
  obtain ⟨-, hoffset, hcount, -, -, -, hnIn, -⟩ := h
  simp only [sliceBase, sliceLen, sliceInRange, hoffset, hcount, hnIn, and_self]

theorem SameOperands.radix (h : SameOperands s t) : radix t = radix s := by
  obtain ⟨-, -, -, halen, -⟩ := h
  rw [Machine.radix, halen, Machine.radix]

theorem SameOperands.alphabet (h : SameOperands s t) : alphabet t = alphabet s := by
  simp only [Machine.alphabet, h.radix, h.bytes.readBytes]

theorem SameOperands.alphabetFault (h : SameOperands s t) : alphabetFault t = alphabetFault s := by
  simp only [Machine.alphabetFault, h.radix, h.alphabet]

theorem SameOperands.encodeCode (h : SameOperands s t) (v : Nat) : encodeCode t v = encodeCode s v := by
  have hsym : alphaSym t = alphaSym s := funext fun j => h.bytes _
  rw [Machine.encodeCode, h.radix, hsym, Machine.encodeCode]

theorem SameOperands.codeLength (h : SameOperands s t) : codeLength t = codeLength s := by
  rw [Machine.codeLength, h.codeLen, Machine.codeLength]

theorem SameOperands.shortCode (h : SameOperands s t) : shortCode t = shortCode s := by
  simp only [Machine.shortCode, h.codeLength, h.bytes.readBytes]

end Operands

/-! ### The endings of one command in two blocks -/

/-- Command `i` ends alike in blocks `s` and `t`: with the same results, with the same code (ENCODE), or with the
same cause. -/
inductive EndsAlike (i : Instr) (s t : State) : Result → Result → Prop
  | results (r0 r1 : DWord) :
      EndsAlike i s t (conclude s (.ok (setResult r0 r1 s))) (conclude t (.ok (setResult r0 r1 t)))
  | code (hi : i = .encode) (n : BitVec 7) (bs : List Byte) :
      EndsAlike i s t (conclude s (.ok (setCodeLen n (writeBytes s Buffer.codebuf.base bs))))
        (conclude t (.ok (setCodeLen n (writeBytes t Buffer.codebuf.base bs))))
  | error (c : Cause) : EndsAlike i s t (conclude s (.error c)) (conclude t (.error c))

/-- Both forms of the 128-bit hash, from one seed. -/
theorem conclude_hash128Into_endsAlike (i : Instr) {s t : State} (h : SameOperands s t) (seed : DWord) :
    EndsAlike i s t (conclude s (hash128Into seed s)) (conclude t (hash128Into seed t)) := by
  obtain ⟨hbase, hlen, hrange⟩ := h.slice
  have hhash := hash128_congr (a := sliceBase s) (n := sliceLen s) (fun j _ => h.bytes (sliceBase s + j)) seed
  simp only [hash128Into, hbase, hlen, hrange, hhash]
  split
  · exact .results _ _
  · exact .error _

theorem execHash32_endsAlike {s t : State} (h : SameOperands s t) :
    EndsAlike .hash32 s t (execHash32 s) (execHash32 t) := by
  obtain ⟨hbase, hlen, hrange⟩ := h.slice
  have hhash := hash32_congr (a := sliceBase s) (n := sliceLen s) (fun j _ => h.bytes (sliceBase s + j)) s.seed
  simp only [execHash32, hbase, hlen, hrange, h.seed, hhash]
  split
  · exact .results _ _
  · exact .error _

theorem execEncode_endsAlike {s t : State} (h : SameOperands s t) :
    EndsAlike .encode s t (execEncode s) (execEncode t) := by
  simp only [execEncode, encodeInto, h.alphabetFault, h.radix, h.opa, h.encodeCode]
  split
  · exact .error _
  · split
    · exact .error _
    · exact .code rfl _ _

theorem execDecode_endsAlike {s t : State} (h : SameOperands s t) :
    EndsAlike .decode s t (execDecode s) (execDecode t) := by
  simp only [execDecode, decodeInto, h.alphabetFault, h.codeLength, h.alphabet, h.radix, h.shortCode]
  split
  · exact .error _
  · split
    · exact .error _
    · split
      · exact .error _
      · exact .results _ _

theorem exec_endsAlike (i : Instr) {s t : State} (h : SameOperands s t) :
    EndsAlike i s t (exec i s) (exec i t) := by
  cases i with
  | rotl32 amt =>
    simp only [exec, execRotl32, h.opa32]
    split
    · exact .error _
    · exact .results _ _
  | rotl64 amt =>
    simp only [exec, execRotl64, h.opa]
    split
    · exact .error _
    · exact .results _ _
  | fmix32 =>
    simp only [exec, execFmix32, h.opa32]
    exact .results _ _
  | fmix64 =>
    simp only [exec, execFmix64, h.opa]
    exact .results _ _
  | hash32 => exact execHash32_endsAlike h
  | hash128 => exact conclude_hash128Into_endsAlike _ h 0
  | hash128s =>
    simp only [exec, execHash128s, h.seed64]
    exact conclude_hash128Into_endsAlike _ h _
  | encode => exact execEncode_endsAlike h
  | decode => exact execDecode_endsAlike h

/-- Settles O34: every command ends alike in blocks with the same operand state, and each of the three endings
leaves the same cause, code length, bytes and results (R17). -/
theorem commandsArePure : Obligations.CommandsArePure := by
  unfold Obligations.CommandsArePure
  intro i s t h hs ht
  have hends := exec_endsAlike i h
  generalize exec i s = rs at hends ⊢
  generalize exec i t = rt at hends ⊢
  cases hends with
  | results r0 r1 =>
    refine ⟨_, _, conclude_ok _ _, conclude_ok _ _, ?_, ?_, h.codeLen.symm, ?_, fun _ _ => ⟨rfl, rfl⟩⟩
    · simp [Status.completed, hs, ht]
    · simp [Status.completed, hs]
    · exact h.bytes.of_sameStore rfl rfl rfl rfl
  | code hi n bs =>
    refine ⟨_, _, conclude_ok _ _, conclude_ok _ _, ?_, ?_, rfl, ?_, fun _ hne => absurd hi hne⟩
    · simp [Status.completed, hs, ht]
    · simp [Status.completed, hs]
    · exact (h.bytes.writeBytes Buffer.codebuf.base bs).of_sameStore rfl rfl rfl rfl
  | error c =>
    refine ⟨_, _, conclude_error _ _, conclude_error _ _, rfl, fun _ => rfl, h.codeLen.symm, ?_, ?_⟩
    · exact h.bytes.of_sameStore rfl rfl rfl rfl
    · simp [Status.reported]

end Sys2Proof.Machine
end

section
/-! PROOFS. What every step keeps. First what a taken write and the end of a command can do to the state; from that
the invariant (spec/10_state.md R23, spec/70_reset_and_hazards.md R230), the constant parameter (R7, R34) and the
operands held while BUSY = 1 (R42). -/

namespace Sys2Proof.Machine

/-! ### What a taken write can do -/

/-- An access that reaches a register is at that register's offset. -/
theorem portTarget_reg_offset {nIn off : Nat} {n : Width} {r : Reg} (h : portTarget nIn off n = some (.reg r)) :
    off = r.offsetOf := by
  unfold portTarget at h
  split at h
  · split at h
    · obtain ⟨r', hr', hrr⟩ := Option.map_eq_some_iff.1 h
      obtain rfl : r' = r := by simpa using hrr
      have := List.find?_some hr'
      exact (beq_iff_eq.1 this).symm
    · simp at h
  · split at h <;> simp at h

/-- What a taken write of `v` at offset `off` makes of the state `s`. -/
inductive WriteEffect (off : BitVec 17) (v : Word) (s : State) : State → Prop
  | ignored : WriteEffect off v s s
  | softReset (hoff : off = 0x004) (hv : v.getLsbD 1 = true) : WriteEffect off v s (resetBlock s)
  | enable (ie : Bool) : WriteEffect off v s { s with ie := ie }
  | acknowledged : WriteEffect off v s (acknowledge v s)
  | dropped (hb : s.status.busy = true) : WriteEffect off v s (dropWrite s)
  | issued (hb : s.status.busy = false) : WriteEffect off v s (issue v s)
  | operands (hb : s.status.busy = false) (seed offset count : Word) (alen : BitVec 9) (opa : DWord)
      (codeLen : BitVec 7) :
      WriteEffect off v s
        { s with seed := seed, offset := offset, count := count, alen := alen, opa := opa, codeLen := codeLen }
  | bytes (hb : s.status.busy = false) (a : Nat) (bs : List Byte)
      (hbuf : ∀ k, a ≤ k → k < a + bs.length → InBuffer s.nIn k) : WriteEffect off v s (writeBytes s a bs)

section Write

variable {off : BitVec 17} {v : Word} {s t : State}

theorem WriteEffect.unlessBusy (h : s.status.busy = false → WriteEffect off v s t) :
    WriteEffect off v s (unlessBusy s t) := by
  unfold Machine.unlessBusy
  split
  · next hb => exact .dropped hb
  · next hb => exact h (by simpa using hb)

theorem writeCtrl_effect (hoff : off = 0x004) : WriteEffect off v s (writeCtrl v s) := by
  unfold writeCtrl
  split
  · next hv => exact .softReset hoff hv
  · exact .enable _

theorem writeReg_effect (r : Reg) (hoff : off.toNat = r.offsetOf) : WriteEffect off v s (writeReg r v s) := by
  cases r with
  | ctrl => exact writeCtrl_effect (BitVec.eq_of_toNat_eq hoff)
  | status => exact .acknowledged
  | cmd => exact .unlessBusy fun hb => .issued hb
  | seed => exact .unlessBusy fun hb => .operands hb v _ _ _ _ _
  | offset => exact .unlessBusy fun hb => .operands hb _ v _ _ _ _
  | count => exact .unlessBusy fun hb => .operands hb _ _ v _ _ _
  | alen => exact .unlessBusy fun hb => .operands hb _ _ _ (v.setWidth 9) _ _
  | opaLo => exact .unlessBusy fun hb => .operands hb _ _ _ _ (withLo s.opa v) _
  | opaHi => exact .unlessBusy fun hb => .operands hb _ _ _ _ (withHi s.opa v) _
  | codeLen => exact .unlessBusy fun hb => .operands hb _ _ _ _ _ (v.setWidth 7)
  | id | res0Lo | res0Hi | res1Lo | res1Hi | inbufSize | digest0 | digest1 | digest2 | digest3 => exact .ignored

/-- All that a taken host write can do. -/
theorem hostWrite_effect {n : Width} (h : hostWrite off n v s = .next t) : WriteEffect off v s t := by
  obtain ⟨r, hr, rfl⟩ | ⟨b, hb, rfl⟩ := hostWrite_next h
  · exact writeReg_effect r (portTarget_reg_offset hr)
  · refine .unlessBusy fun hidle => .bytes hidle _ _ fun k hk hlt => ?_
    exact portTarget_buf_inBuffer hb k hk (by simpa using hlt)

end Write

/-! ### What the end of a command can do -/

/-- What a command, or the report of an illegal word, makes of the state `s`. -/
inductive CommandEffect (s : State) : State → Prop
  | results (r0 r1 : DWord) : CommandEffect s (s.succeeded r0 r1)
  | code (bs : List Byte) (hpos : 1 ≤ bs.length) (hlen : bs.length ≤ 64) :
      CommandEffect s (complete (setCodeLen (BitVec.ofNat 7 bs.length) (writeBytes s Buffer.codebuf.base bs)))
  | report (c : Cause) : CommandEffect s (s.failed c)

section Command

variable {s t : State}

theorem exec_effect {i : Instr} (h : exec i s = .next t) : CommandEffect s t := by
  obtain ⟨r0, r1, -, he⟩ | ⟨bs, -, hpos, hlen, he⟩ | ⟨c, he⟩ := exec_cases i s <;>
    obtain rfl := Host.Outcome.next.inj (he.symm.trans h)
  · exact .results r0 r1
  · exact .code bs hpos hlen
  · exact .report c

/-- All that the engine's turn can do: nothing while idle, and the end of the pending command otherwise. -/
theorem engineTurn_effect (h : engineTurn s = .next t) :
    (s.status.busy = false ∧ t = s) ∨ (s.status.busy = true ∧ CommandEffect s t) := by
  obtain ⟨hidle, he⟩ | ⟨hb, i, -, he⟩ | ⟨hb, he⟩ := engineTurn_cases s
  · exact .inl ⟨hidle, Host.Outcome.next.inj (h.symm.trans he)⟩
  · exact .inr ⟨hb, exec_effect (he ▸ h)⟩
  · obtain rfl := Host.Outcome.next.inj (he.symm.trans h)
    exact .inr ⟨hb, .report _⟩

end Command

/-! ### STATUS stays legal (R23) -/

section Legal

variable {st : Status}

theorem Status.cleared_legal : Status.cleared.Legal := by simp [Status.Legal, Status.cleared]

theorem Status.Legal.not_done (h : st.Legal) (hb : st.busy = true) : st.done = false := by
  obtain ⟨hbusy, -⟩ := h
  exact (hbusy hb).1

theorem Status.issued_legal (st : Status) : st.issued.Legal := by simp [Status.Legal]

theorem Status.reported_legal (c : Cause) (st : Status) : (st.reported c).Legal := by simp [Status.Legal]

theorem Status.Legal.completed (h : st.Legal) : st.completed.Legal := by
  obtain ⟨-, hok, herr⟩ := h
  exact ⟨fun hb => by simp at hb, hok, herr⟩

theorem Status.Legal.dropped (h : st.Legal) : st.dropped.Legal := h

theorem Status.Legal.acknowledged (h : st.Legal) (v : Word) : (st.acknowledged v).Legal := by
  obtain ⟨hbusy, hok, herr⟩ := h
  refine ⟨fun hb => ?_, ?_⟩
  · obtain ⟨hdone, herr0⟩ := hbusy hb
    simp [hdone, herr0]
  · cases hv : v[2] with
    | true => simp [hv]
    | false => simpa [hv] using ⟨hok, herr⟩

end Legal

/-! ### The invariant -/

section Invariant

variable {s t : State}

/-- A legal STATUS over the same store keeps the invariant while reset is not asserted. -/
theorem State.Inv.of_sameStore (h : s.Inv) (hstatus : t.status.Legal) (hmem : t.mem = s.mem) (hnIn : t.nIn = s.nIn)
    (hrst : t.rstIn = false) : t.Inv := by
  obtain ⟨-, hwf, hbuf, hn, -⟩ := h
  exact ⟨hstatus, hmem ▸ hwf, hmem ▸ hnIn ▸ hbuf, hnIn ▸ hn, fun hr => by simp [hrst] at hr⟩

theorem State.Inv.writeBytes (h : s.Inv) (hrst : s.rstIn = false) {a : Nat} {bs : List Byte}
    (hin : ∀ k, a ≤ k → k < a + bs.length → InBuffer s.nIn k) : (writeBytes s a bs).Inv := by
  obtain ⟨hstatus, hwf, hbuf, hn, -⟩ := h
  refine ⟨by simpa using hstatus, writeBytes_wf hwf a bs, fun c hc => ?_, by simpa using hn, by simp [hrst]⟩
  rw [writeBytes_nIn]
  obtain hold | ⟨hle, hlt⟩ := mem_writeBytes hc
  · exact hbuf c hold
  · exact hin c.1 hle hlt

theorem State.AtReset.inv (h : s.AtReset) (hn : Config.LegalNIn s.nIn) : s.Inv := by
  have ⟨_, hstatus, _, _, _, _, _, _, _, _, _, hmem⟩ := h
  exact ⟨hstatus ▸ Status.cleared_legal, hmem ▸ List.Pairwise.nil, by simp [hmem], hn, fun _ => h⟩

theorem State.reset_atReset : State.reset.AtReset := by decide

theorem resetBlock_atReset (s : State) : (resetBlock s).AtReset := by simp [State.AtReset]

theorem resetBlock_inv (hn : Config.LegalNIn s.nIn) : (resetBlock s).Inv := (resetBlock_atReset s).inv hn

theorem WriteEffect.inv {off : BitVec 17} {v : Word} (h : WriteEffect off v s t) (hs : s.Inv)
    (hrst : s.rstIn = false) : t.Inv := by
  have ⟨hstatus, _, _, hn, _⟩ := hs
  cases h with
  | ignored => exact hs
  | softReset => exact resetBlock_inv hn
  | enable ie => exact hs.of_sameStore hstatus rfl rfl hrst
  | acknowledged => exact hs.of_sameStore (hstatus.acknowledged v) rfl rfl hrst
  | dropped hb => exact hs.of_sameStore hstatus.dropped rfl rfl hrst
  | issued hb => exact hs.of_sameStore (Status.issued_legal _) rfl rfl hrst
  | operands hb => exact hs.of_sameStore hstatus rfl rfl hrst
  | bytes hb a bs hbuf => exact hs.writeBytes hrst hbuf

theorem CommandEffect.inv (h : CommandEffect s t) (hs : s.Inv) (hrst : s.rstIn = false) : t.Inv := by
  have ⟨hstatus, _, _, _, _⟩ := hs
  cases h with
  | results r0 r1 => exact hs.of_sameStore hstatus.completed rfl rfl hrst
  | code bs hpos hlen =>
    have hcode : (writeBytes s Buffer.codebuf.base bs).Inv :=
      hs.writeBytes hrst fun k hle hlt => .inr (.inl ⟨hle, Nat.lt_of_lt_of_le hlt (Nat.add_le_add_left hlen _)⟩)
    exact hcode.of_sameStore (by simpa using hstatus.completed) rfl rfl (by simpa using hrst)
  | report c => exact hs.of_sameStore (Status.reported_legal c s.status) rfl rfl hrst

end Invariant

/-- Settles O52, event by event: a reset leaves the reset values, and while reset is not asserted a write, a read, a
delay and the engine's turn each keep STATUS legal and the store canonical. -/
theorem stepKeepsInvariant : Obligations.StepKeepsInvariant := by
  unfold Obligations.StepKeepsInvariant
  intro s t hs hstep
  obtain ⟨u, hu, hcases⟩ := step_cases hstep
  have hinv : u.Inv ∧ u.rstIn = s.rstIn := by
    obtain rfl | ⟨e, es, -, rfl⟩ := hu
    · exact ⟨hs, rfl⟩
    · exact ⟨hs, rfl⟩
  obtain ⟨hinv, hru⟩ := hinv
  have ⟨hstatus, _, _, hn, _⟩ := hinv
  obtain ⟨-, rfl | rfl⟩ | ⟨hrst, hrun⟩ := hcases
  · exact resetBlock_inv hn
  · exact resetBlock_inv hn
  · rw [← hru] at hrst
    obtain rfl | rfl | rfl | hengine | ⟨off, n, v, hwrite⟩ | ⟨off, n, hread⟩ := hrun
    · exact hinv
    · exact hinv.of_sameStore hstatus rfl rfl hrst
    · exact resetBlock_inv hn
    · obtain ⟨-, rfl⟩ | ⟨-, heffect⟩ := engineTurn_effect hengine
      · exact hinv
      · exact heffect.inv hinv hrst
    · exact (hostWrite_effect hwrite).inv (hinv.of_sameStore hstatus rfl rfl hrst) hrst
    · obtain ⟨d, rfl⟩ := hostRead_next hread
      exact hinv.of_sameStore hstatus rfl rfl hrst

/-- Settles O51: the default N_IN of R7 is legal, and the rest follows from the reset values. -/
theorem resetMeetsInvariant : Obligations.ResetMeetsInvariant := by
  unfold Obligations.ResetMeetsInvariant
  exact State.reset_atReset.inv (by decide)

/-- Settles O50: the reset values, and STATUS with every field 0 reads as the word 0. -/
theorem resetValues : Obligations.ResetValues := by
  unfold Obligations.ResetValues
  exact ⟨State.reset_atReset, rfl, by decide⟩

/-! ### The parameter N_IN is constant (R7, R34) -/

section Parameter

variable {s t : State}

theorem WriteEffect.nIn_eq {off : BitVec 17} {v : Word} (h : WriteEffect off v s t) : t.nIn = s.nIn := by
  cases h with
  | bytes hb a bs => exact writeBytes_nIn s a bs
  | ignored | softReset | enable | acknowledged | dropped | issued | operands => rfl

theorem CommandEffect.nIn_eq (h : CommandEffect s t) : t.nIn = s.nIn := by
  cases h with
  | code bs => exact writeBytes_nIn s _ bs
  | results | report => rfl

theorem step_nIn (h : step s = .next t) : t.nIn = s.nIn := by
  obtain ⟨u, hu, hcases⟩ := step_cases h
  have hnu : u.nIn = s.nIn := by
    obtain rfl | ⟨e, es, -, rfl⟩ := hu <;> rfl
  rw [← hnu]
  obtain ⟨-, rfl | rfl⟩ | ⟨-, rfl | rfl | rfl | hengine | ⟨off, n, v, hwrite⟩ | ⟨off, n, hread⟩⟩ := hcases
  · rfl
  · rfl
  · rfl
  · rfl
  · rfl
  · obtain ⟨-, rfl⟩ | ⟨-, heffect⟩ := engineTurn_effect hengine
    · rfl
    · exact heffect.nIn_eq
  · exact (hostWrite_effect hwrite).nIn_eq
  · obtain ⟨d, rfl⟩ := hostRead_next hread
    rfl

end Parameter

/-- Settles O53: neither a write, nor a command, nor a reset writes N_IN; ID is a constant. -/
theorem parameterConstant : Obligations.ParameterConstant := by
  unfold Obligations.ParameterConstant
  exact fun s t h => ⟨step_nIn h, rfl⟩

/-! ### The operands are held while BUSY = 1 (R42) -/

theorem SameOperands.refl (s : State) : SameOperands s s :=
  ⟨rfl, rfl, rfl, rfl, rfl, rfl, rfl, fun _ => rfl⟩

/-- A write to a busy block that is no soft reset changes no operand: it drops a command, an operand or bytes. -/
theorem WriteEffect.held_of_busy {off : BitVec 17} {v : Word} {s t : State} (h : WriteEffect off v s t)
    (hb : s.status.busy = true) (hreset : ¬(off = 0x004 ∧ v.getLsbD 1 = true)) :
    t.status.busy = true ∧ t.cmd = s.cmd ∧ SameOperands s t := by
  cases h with
  | softReset hoff hv => exact absurd ⟨hoff, hv⟩ hreset
  | issued hidle | operands hidle | bytes hidle => simp [hb] at hidle
  | ignored | enable | acknowledged | dropped =>
    exact ⟨hb, rfl, SameOperands.refl s⟩

/-- Settles O54: a write is dropped or touches no operand, and a delay, a read and a release of the reset input
change only the draw and the record of the reads. -/
theorem operandsHeldWhileBusy : Obligations.OperandsHeldWhileBusy := by
  unfold Obligations.OperandsHeldWhileBusy
  intro s t e hb hrst hplain hne hrun
  simp only [runEvent, hrst, Bool.false_eq_true, if_false] at hrun
  cases e with
  | engine => exact absurd rfl hne
  | resetOn => exact hplain.elim
  | delay =>
    obtain rfl := Host.Outcome.next.inj hrun
    exact ⟨hb, rfl, SameOperands.refl s⟩
  | resetOff =>
    obtain rfl := Host.Outcome.next.inj hrun
    exact ⟨hb, rfl, SameOperands.refl s⟩
  | read off n =>
    obtain ⟨d, rfl⟩ := hostRead_next hrun
    exact ⟨hb, rfl, SameOperands.refl s⟩
  | write off n v =>
    exact (hostWrite_effect hrun).held_of_busy hb hplain.2

end Sys2Proof.Machine
end

section
/-! PROOFS. The frames of the commands: the eight that write RES0 and RES1, and ENCODE (spec/10_state.md R43). -/

namespace Sys2Proof.Machine

/-- The commands with one result write 0 to RES1 when they succeed. -/
theorem exec_singleResult {i : Instr} (h1 : i ≠ .encode) (h2 : i ≠ .hash128) (h3 : i ≠ .hash128s) (s : State) :
    (∃ r, exec i s = .next (s.succeeded r 0)) ∨ ∃ c, exec i s = .next (s.failed c) := by
  cases i with
  | rotl32 amt =>
    simp only [exec, execRotl32]
    split
    · exact .inr ⟨_, conclude_failed s _⟩
    · exact .inl ⟨_, conclude_setResult s _ 0⟩
  | rotl64 amt =>
    simp only [exec, execRotl64]
    split
    · exact .inr ⟨_, conclude_failed s _⟩
    · exact .inl ⟨_, conclude_setResult s _ 0⟩
  | fmix32 => exact .inl ⟨_, conclude_setResult s _ 0⟩
  | fmix64 => exact .inl ⟨_, conclude_setResult s _ 0⟩
  | hash32 =>
    simp only [exec, execHash32]
    split
    · exact .inl ⟨_, conclude_setResult s _ 0⟩
    · exact .inr ⟨_, conclude_failed s _⟩
  | decode =>
    simp only [exec, execDecode, decodeInto]
    split
    · exact .inr ⟨_, conclude_failed s _⟩
    · split
      · exact .inr ⟨_, conclude_failed s _⟩
      · split
        · exact .inr ⟨_, conclude_failed s _⟩
        · exact .inl ⟨_, conclude_setResult s _ 0⟩
  | encode => exact absurd rfl h1
  | hash128 => exact absurd rfl h2
  | hash128s => exact absurd rfl h3

/-- Settles O32: the two 128-bit hashes may write both results, every other command leaves RES1 = 0. -/
theorem resultCommandsFrame : Obligations.ResultCommandsFrame := by
  unfold Obligations.ResultCommandsFrame
  intro i s t hne hexec
  by_cases hpair : i = .hash128 ∨ i = .hash128s
  · obtain ⟨r0, r1, -, he⟩ | ⟨_, hi, -⟩ | ⟨c, he⟩ := exec_cases i s
    · exact .inl ⟨r0, r1, Host.Outcome.next.inj (hexec.symm.trans he), fun h h' => (hpair.elim h h').elim⟩
    · exact absurd hi hne
    · exact .inr ⟨c, Host.Outcome.next.inj (hexec.symm.trans he)⟩
  · obtain ⟨h128, h128s⟩ := not_or.1 hpair
    obtain ⟨r, he⟩ | ⟨c, he⟩ := exec_singleResult hne h128 h128s s
    · exact .inl ⟨r, 0, Host.Outcome.next.inj (hexec.symm.trans he), fun _ _ => rfl⟩
    · exact .inr ⟨c, Host.Outcome.next.inj (hexec.symm.trans he)⟩

/-- Settles O33: ENCODE's only effects are the bytes of its code, of 1 to 64 symbols, their number and the
completion. -/
theorem encodeFrame : Obligations.EncodeFrame := by
  unfold Obligations.EncodeFrame
  intro s t hexec
  obtain ⟨_, _, hne, -⟩ | ⟨bs, -, hpos, hlen, he⟩ | ⟨c, he⟩ := exec_cases .encode s
  · exact absurd rfl hne
  · obtain rfl := Host.Outcome.next.inj (he.symm.trans hexec)
    have hcodeLen : (BitVec.ofNat 7 bs.length).toNat = bs.length := Nat.mod_eq_of_lt (by omega)
    simp only [complete_codeLen, setCodeLen_codeLen, hcodeLen]
    refine .inr ⟨?_, hpos, hlen, fun off hoff => ?_⟩
    · rw [writeBytes_eq]
      rfl
    · exact readByte_writeBytes_outside s Buffer.codebuf.base off bs hoff
  · exact .inl ⟨c, Host.Outcome.next.inj (hexec.symm.trans he)⟩

end Sys2Proof.Machine
end

section
/-! PROOFS. The registers at the host port: what each holds and reads as (spec/10_state.md R21 to R35), STATUS
(R23), and the level of irq (R39, R211). -/

namespace Sys2Proof.Machine

/-! ### Words and their parts as numbers -/

theorem toNat_append_eq_add {m n : Nat} (x : BitVec m) (y : BitVec n) :
    (x ++ y).toNat = x.toNat * 2 ^ n + y.toNat := by
  rw [BitVec.toNat_append, ← Nat.shiftLeft_add_eq_or_of_lt y.isLt, Nat.shiftLeft_eq]

theorem getLsbD_eq_decide {w : Nat} (v : BitVec w) (i : Nat) :
    v.getLsbD i = decide (v.toNat / 2 ^ i % 2 = 1) :=
  Nat.testBit_eq_decide_div_mod_eq

theorem setWidth_eq_ofNat_mod {w : Nat} (n : Nat) (v : BitVec w) :
    v.setWidth n = BitVec.ofNat n (v.toNat % 2 ^ n) :=
  BitVec.eq_of_toNat_eq (by simp)

theorem extractLsb'_toNat_eq_div {w : Nat} (v : BitVec w) (i n : Nat) :
    (v.extractLsb' i n).toNat = v.toNat / 2 ^ i % 2 ^ n := by
  rw [BitVec.extractLsb'_toNat, Nat.shiftRight_eq_div_pow]

theorem loHalf_toNat (v : DWord) : (loHalf v).toNat = v.toNat % 2 ^ 32 := by
  rw [loHalf, extractLsb'_toNat_eq_div, pow_zero, Nat.div_one]

theorem hiHalf_toNat (v : DWord) : (hiHalf v).toNat = v.toNat / 2 ^ 32 := by
  rw [hiHalf, extractLsb'_toNat_eq_div]
  exact Nat.mod_eq_of_lt (by omega)

theorem loHalf_eq_ofNat (v : DWord) : loHalf v = BitVec.ofNat 32 (v.toNat % 2 ^ 32) := by
  rw [← loHalf_toNat, BitVec.ofNat_toNat, BitVec.setWidth_eq]

theorem hiHalf_eq_ofNat (v : DWord) : hiHalf v = BitVec.ofNat 32 (v.toNat / 2 ^ 32) := by
  rw [← hiHalf_toNat, BitVec.ofNat_toNat, BitVec.setWidth_eq]

theorem withLo_eq_ofNat (v : DWord) (w : Word) :
    withLo v w = BitVec.ofNat 64 (v.toNat / 2 ^ 32 * 2 ^ 32 + w.toNat) := by
  rw [← hiHalf_toNat, ← toNat_append_eq_add, BitVec.ofNat_toNat, BitVec.setWidth_eq, withLo]

theorem withHi_eq_ofNat (v : DWord) (w : Word) :
    withHi v w = BitVec.ofNat 64 (w.toNat * 2 ^ 32 + v.toNat % 2 ^ 32) := by
  rw [← loHalf_toNat, ← toNat_append_eq_add, BitVec.ofNat_toNat, BitVec.setWidth_eq, withHi]

/-! ### Accesses to one register -/

theorem unlessBusy_idle {s : State} (h : s.status.busy = false) (t : State) : unlessBusy s t = t := by
  simp [unlessBusy, h]

/-- A read of a register that is no result returns its value, BUSY or not. -/
theorem hostRead_reg_notResult (r : Reg) (hr : (Target.reg r).isResult = false) (s : State) :
    hostRead (BitVec.ofNat 17 r.offsetOf) .word s =
      .next (returnData (BitVec.ofNat 17 r.offsetOf) .word (readReg r s) s) := by
  rw [hostRead, portTarget_reg]
  simp [hr, storedValue]

/-- Settles O38: ID is read-only and no result. -/
theorem idConstant : Obligations.IdConstant := by
  unfold Obligations.IdConstant
  exact fun s v => ⟨hostWrite_reg .id v s, hostRead_reg_notResult .id rfl s⟩

section Idle

variable {s : State} (h : s.status.busy = false)
include h

/-- A write to an input register whose effect, when idle, is `t`. -/
theorem hostWrite_input {r : Reg} {v : Word} {t : State} (hr : writeReg r v s = unlessBusy s t) :
    hostWrite (BitVec.ofNat 17 r.offsetOf) .word v s = .next t := by
  rw [hostWrite_reg, hr, unlessBusy_idle h]

/-- A read of a register whose value is `d`. -/
theorem hostRead_value (r : Reg) {d : Word} (hr : readReg r s = d) :
    hostRead (BitVec.ofNat 17 r.offsetOf) .word s =
      .next { s with reads := ⟨BitVec.ofNat 17 r.offsetOf, .word, d⟩ :: s.reads } := by
  rw [hostRead_reg r h, hr, returnData]

end Idle

/-- Settles O37, register by register: an idle block takes every input write, and each stored or read value is the
part of the number that the register holds. -/
theorem inputRegistersStoreTheirBits : Obligations.InputRegistersStoreTheirBits := by
  unfold Obligations.InputRegistersStoreTheirBits
  intro s v h
  refine ⟨hostWrite_input h (r := .seed) rfl, hostWrite_input h (r := .offset) rfl,
    hostWrite_input h (r := .count) rfl, ?alen, ?opaLo, ?opaHi, ?codeLen, ?ctrl, ?readOnly, ?reads⟩
  case alen =>
    rw [← setWidth_eq_ofNat_mod]
    exact hostWrite_input h (r := .alen) rfl
  case opaLo =>
    rw [← withLo_eq_ofNat]
    exact hostWrite_input h (r := .opaLo) rfl
  case opaHi =>
    rw [← withHi_eq_ofNat]
    exact hostWrite_input h (r := .opaHi) rfl
  case codeLen =>
    rw [← setWidth_eq_ofNat_mod]
    exact hostWrite_input h (r := .codeLen) rfl
  case ctrl =>
    intro hv
    refine (hostWrite_reg .ctrl v s).trans ?_
    simp only [writeReg, writeCtrl, hv, Bool.false_eq_true, if_false]
  case readOnly =>
    simp only [List.forall_mem_cons]
    exact ⟨hostWrite_reg .id v s, hostWrite_reg .res0Lo v s, hostWrite_reg .res0Hi v s, hostWrite_reg .res1Lo v s,
      hostWrite_reg .res1Hi v s, hostWrite_reg .inbufSize v s, hostWrite_reg .digest0 v s,
      hostWrite_reg .digest1 v s, hostWrite_reg .digest2 v s, hostWrite_reg .digest3 v s, by simp⟩
  case reads =>
    intro off d hmem
    simp only [List.mem_cons, Prod.mk.injEq, List.not_mem_nil, or_false] at hmem
    obtain ⟨rfl, rfl⟩ | ⟨rfl, rfl⟩ | ⟨rfl, rfl⟩ | ⟨rfl, rfl⟩ | ⟨rfl, rfl⟩ | ⟨rfl, rfl⟩ | ⟨rfl, rfl⟩ | ⟨rfl, rfl⟩
      | ⟨rfl, rfl⟩ | ⟨rfl, rfl⟩ | ⟨rfl, rfl⟩ | ⟨rfl, rfl⟩ | ⟨rfl, rfl⟩ | ⟨rfl, rfl⟩ := hmem
    · exact hostRead_value h .ctrl (by cases hie : s.ie <;> simp [readReg, hie])
    · exact hostRead_value h .cmd rfl
    · exact hostRead_value h .seed rfl
    · exact hostRead_value h .offset rfl
    · exact hostRead_value h .count rfl
    · exact hostRead_value h .alen (BitVec.ofNat_toNat 32 s.alen).symm
    · exact hostRead_value h .opaLo (loHalf_eq_ofNat s.opa)
    · exact hostRead_value h .opaHi (hiHalf_eq_ofNat s.opa)
    · exact hostRead_value h .res0Lo (loHalf_eq_ofNat s.res0)
    · exact hostRead_value h .res0Hi (hiHalf_eq_ofNat s.res0)
    · exact hostRead_value h .res1Lo (loHalf_eq_ofNat s.res1)
    · exact hostRead_value h .res1Hi (hiHalf_eq_ofNat s.res1)
    · exact hostRead_value h .codeLen (BitVec.ofNat_toNat 32 s.codeLen).symm
    · exact hostRead_value h .inbufSize rfl

/-! ### DIGEST (R35) -/

/-- Digest byte `i` stands in the 128-bit number RES0 above RES1, counted from its most significant byte. -/
theorem digestByte_eq_extract (s : State) {i : Nat} (hi : i < 16) :
    digestByte s i = (s.res0 ++ s.res1).extractLsb' (8 * (15 - i)) 8 := by
  refine BitVec.eq_of_getLsbD_eq fun b hb => ?_
  unfold digestByte
  split
  · next hlo =>
    simp only [BitVec.getLsbD_extractLsb', hb, decide_true, Bool.true_and, BitVec.getLsbD_append]
    rw [if_neg (by omega), show 8 * (15 - i) + b - 64 = 56 - 8 * i + b by omega]
  · next hhi =>
    simp only [BitVec.getLsbD_extractLsb', hb, decide_true, Bool.true_and, BitVec.getLsbD_append]
    rw [if_pos (by omega), show 8 * (15 - i) + b = 56 - 8 * (i - 8) + b by omega]

/-- A byte moved to place `m` of a word stands there alone. -/
theorem shiftedByte_extract (b : Byte) {m j : Nat} (hj : j < 4) :
    ((b.setWidth 32 : Word) <<< (8 * m)).extractLsb' (8 * j) 8 = if m = j then b else 0 := by
  refine BitVec.eq_of_getLsbD_eq fun i hi => ?_
  simp only [BitVec.getLsbD_extractLsb', hi, decide_true, Bool.true_and, BitVec.getLsbD_shiftLeft,
    BitVec.getLsbD_setWidth]
  split
  · next hmj =>
    subst hmj
    simp [hi, show 8 * m + i < 32 by omega, show i < 32 by omega]
  · next hmj =>
    by_cases hlt : 8 * j + i < 8 * m
    · simp [hlt]
    · rw [BitVec.getLsbD_of_ge b _ (by omega)]
      simp

/-- Byte `j` of DIGESTk is digest byte `4 * k + j`. -/
theorem digestWord_extract (s : State) (k : Nat) {j : Nat} (hj : j < 4) :
    (digestWord s k).extractLsb' (8 * j) 8 = digestByte s (4 * k + j) := by
  have hword : digestWord s k =
      (digestByte s (4 * k)).setWidth 32 <<< (8 * 0) ||| (digestByte s (4 * k + 1)).setWidth 32 <<< (8 * 1)
        ||| (digestByte s (4 * k + 2)).setWidth 32 <<< (8 * 2)
        ||| (digestByte s (4 * k + 3)).setWidth 32 <<< (8 * 3) := by
    simp only [digestWord, Nat.mul_zero, BitVec.shiftLeft_zero, Nat.reduceMul]
  simp only [hword, BitVec.extractLsb'_or, shiftedByte_extract _ hj]
  interval_cases j <;> simp

theorem hostRead_digest {s : State} (h : s.status.busy = false) {k : Nat} (hk : k < 4) :
    hostRead (BitVec.ofNat 17 (0x040 + 4 * k)) .word s =
      .next (returnData (BitVec.ofNat 17 (0x040 + 4 * k)) .word (digestWord s k) s) := by
  interval_cases k
  · exact hostRead_reg .digest0 h
  · exact hostRead_reg .digest1 h
  · exact hostRead_reg .digest2 h
  · exact hostRead_reg .digest3 h

/-- Settles O39: byte j of the word is a digest byte, and that is a byte of RES0 above RES1. -/
theorem digestBigEndian : Obligations.DigestBigEndian := by
  unfold Obligations.DigestBigEndian
  intro s k j h hk hj
  refine ⟨digestWord s k, hostRead_digest h hk, ?_⟩
  rw [← extractLsb'_toNat_eq_div, digestWord_extract s k hj, digestByte_eq_extract s (by omega),
    extractLsb'_toNat_eq_div, toNat_append_eq_add]

/-! ### STATUS (R23) -/

/-- The acknowledgement by the bits of the number written. -/
theorem Status.acknowledged_eq (v : Word) (st : Status) :
    st.acknowledged v =
      { busy := st.busy
        done := if v.toNat / 2 % 2 = 1 then false else st.done
        err := if v.toNat / 4 % 2 = 1 then false else st.err
        wbusy := if v.toNat / 8 % 2 = 1 then false else st.wbusy
        errKind := if v.toNat / 4 % 2 = 1 then none else st.errKind
        errCause := if v.toNat / 4 % 2 = 1 then none else st.errCause } := by
  have hclear (x : Bool) (p : Prop) [Decidable p] : (x && !decide p) = if p then false else x := by
    by_cases hp : p <;> simp [hp]
  simp only [Status.acknowledged, getLsbD_eq_decide, hclear, decide_eq_true_eq, pow_one, Nat.reducePow]

/-- The word of a STATUS read as a number. -/
theorem Status.toWord_toNat (st : Status) :
    st.toWord.toNat = st.busy.toNat + 2 * st.done.toNat + 4 * st.err.toNat + 8 * st.wbusy.toNat
      + 16 * st.kindField.toNat + 256 * st.causeField.toNat := by
  simp only [Status.toWord, toNat_append_eq_add, BitVec.toNat_ofBool, BitVec.toNat_zero]
  omega

/-- Settles O44: STATUS takes every write as an acknowledgement and is no result. -/
theorem statusWriteOneToClear : Obligations.StatusWriteOneToClear := by
  unfold Obligations.StatusWriteOneToClear
  intro s v
  refine ⟨?_, s.status.toWord, hostRead_reg_notResult .status rfl s, Status.toWord_toNat s.status⟩
  rw [← Status.acknowledged_eq]
  exact hostWrite_reg .status v s

/-! ### The interrupt output (R39, R211) -/

/-- A command that ends sets DONE and keeps IE, so irq takes the level of IE. -/
theorem CommandEffect.irq_eq {s t : State} (h : CommandEffect s t) : t.irq = s.ie := by
  cases h with
  | code bs => simp [State.irq]
  | results | report => rfl

/-- Settles O47, situation by situation: irq follows DONE and IE, which each access and completion writes as said. -/
theorem irqLevel : Obligations.IrqLevel := by
  unfold Obligations.IrqLevel
  refine ⟨fun s hlegal hb => ?_, fun s t hb hturn => ?_, fun s v hv => ?_,
    fun s v hv => ⟨?_, ?_⟩, rfl⟩
  · simp [State.irq, hlegal.not_done hb]
  · obtain ⟨hidle, -⟩ | ⟨-, heffect⟩ := engineTurn_effect hturn
    · simp [hb] at hidle
    · exact heffect.irq_eq
  · refine ⟨_, hostWrite_reg .ctrl v s, ?_⟩
    simp only [writeReg, writeCtrl, hv, Bool.false_eq_true, if_false, State.irq]
  · refine ⟨_, hostWrite_reg .status v s, ?_⟩
    simp only [writeReg, State.irq, acknowledge_status, Status.acknowledged_done, hv, Bool.not_true, Bool.and_false,
      Bool.false_and]
  · refine ⟨_, hostWrite_reg .ctrl v s, ?_⟩
    simp only [writeReg, writeCtrl, hv, if_true, State.irq, resetBlock_status, Status.cleared, Bool.false_and]

end Sys2Proof.Machine
end

section
/-! PROOFS. The accesses of the host port: which are taken (spec/20_memory.md R52 to R56), the byte lanes of the
buffers (R51, R53), what reads return and change (R57, R66, R241, R242), and repeated writes (R57). -/

namespace Sys2Proof.Machine

/-! ### The targets of the port -/

section Target

variable {nIn off : Nat} {n : Width}

theorem Reg.offsetOf_lt (r : Reg) : r.offsetOf < 0x50 := by cases r <;> decide

theorem Width.bytes_pos (n : Width) : 0 < n.bytes := by cases n <;> decide

theorem Width.bytes_le (n : Width) : n.bytes ≤ 4 := by cases n <;> decide

theorem PortTakes.target (h : PortTakes nIn off n) : ∃ tg, portTarget nIn off n = some tg :=
  Option.isSome_iff_exists.1 ((portTarget_isSome_iff nIn off n).2 h)

theorem portTarget_eq_none (h : ¬ PortTakes nIn off n) : portTarget nIn off n = none :=
  Option.not_isSome_iff_eq_none.1 fun hs => h ((portTarget_isSome_iff nIn off n).1 hs)

/-- Above the registers a taken access reaches a buffer (R53, R59). -/
theorem PortTakes.target_buf (h : PortTakes nIn off n) (hoff : 0x100 ≤ off) :
    ∃ b, portTarget nIn off n = some (.buf b) := by
  obtain ⟨tg, ht⟩ := h.target
  cases tg with
  | buf b => exact ⟨b, ht⟩
  | reg r =>
    have hlt := r.offsetOf_lt
    rw [← portTarget_reg_offset ht] at hlt
    omega

/-- Where the targets are whose reads while BUSY = 1 are draws: RES0 to CODE_LEN, DIGEST and CODEBUF (R241). -/
theorem portTarget_isResult_offset {tg : Target} (h : portTarget nIn off n = some tg) (hres : tg.isResult = true) :
    (0x028 ≤ off ∧ off < 0x03C) ∨ (0x040 ≤ off ∧ off < 0x050) ∨ (0x200 ≤ off ∧ off < 0x240) := by
  cases tg with
  | reg r =>
    obtain rfl := portTarget_reg_offset h
    revert hres
    cases r <;> decide
  | buf b =>
    cases b with
    | alpha | inbuf => cases hres
    | codebuf =>
      obtain ⟨-, -, hle, hlt⟩ := portTarget_buf h
      have hpos := n.bytes_pos
      simp only [Buffer.base, Buffer.size, Config.codeMax] at hle hlt
      omega

end Target

/-! ### Which accesses the port takes (R52, R55, R56) -/

/-- Settles O35: an access the port takes has a target and completes at it, and any other has none. -/
theorem busErrorsExactly : Obligations.BusErrorsExactly := by
  unfold Obligations.BusErrorsExactly
  intro s off n v
  refine ⟨fun h => ⟨?write, ?read⟩, fun h => ?busError⟩
  case write =>
    obtain ⟨tg, ht⟩ := h.target
    cases tg <;> exact ⟨_, by rw [hostWrite, ht]⟩
  case read =>
    obtain ⟨d, hd⟩ := hostRead_taken s off n h
    exact ⟨_, hd s.events s.reads⟩
  case busError =>
    rw [hostWrite, hostRead, portTarget_eq_none h]
    exact ⟨rfl, rfl⟩

/-! ### Byte lanes (R51, R53) -/

/-- Byte `j` of a value, by division and by its bits. -/
theorem ofNat_div_eq_extract (v : Word) (j : Nat) :
    BitVec.ofNat 8 (v.toNat / 256 ^ j) = v.extractLsb' (8 * j) 8 := by
  refine BitVec.eq_of_toNat_eq ?_
  simp only [extractLsb'_toNat_eq_div, BitVec.toNat_ofNat, pow_mul, Nat.reducePow]

/-- Byte `j` of what the port reads from a buffer: the byte at that place, 0 beyond the access. -/
theorem memRead_extract (s : State) (off : Nat) {n : Nat} (hn : n ≤ 4) (j : Nat) :
    (memRead 32 s off n).extractLsb' (8 * j) 8 = if j < n then readByte s (off + j) else 0 := by
  have hlt := leNat_lt (readBytes s off n)
  rw [readBytes_length] at hlt
  have hword : leNat (readBytes s off n) < 2 ^ 32 := hlt.trans_le (Nat.pow_le_pow_right (by decide) hn)
  refine BitVec.eq_of_toNat_eq ?_
  rw [extractLsb'_toNat_eq_div, memRead, BitVec.toNat_ofNat, Nat.mod_eq_of_lt hword, pow_mul]
  split
  · next hj =>
    have hbyte := leNat_byte (readBytes s off n) j (by simpa using hj)
    rw [readBytes_getElem] at hbyte
    exact hbyte
  · next hj =>
    have hle : 256 ^ n ≤ 256 ^ j := Nat.pow_le_pow_right (by decide) (by omega)
    simp [Nat.div_eq_of_lt (hlt.trans_le hle)]

theorem memRead_one (s : State) (off : Nat) : memRead 32 s off 1 = (readByte s off).setWidth 32 := by
  simp [memRead, readBytes, leNat, BitVec.ofNat_toNat]

/-! ### What a taken read returns -/

/-- A taken read returns what is stored, unless it is a result read while BUSY = 1 (R53, R54, R241). -/
theorem hostRead_stored {s : State} {off : BitVec 17} {n : Width} {tg : Target}
    (ht : portTarget s.nIn off.toNat n = some tg) (hres : (s.status.busy && tg.isResult) = false) :
    hostRead off n s = .next (returnData off n (storedValue off.toNat n s tg) s) := by
  simp [hostRead, ht, hres]

theorem hostRead_buf_idle {s : State} {off : BitVec 17} {n : Width} (h : PortTakes s.nIn off.toNat n)
    (hoff : 0x100 ≤ off.toNat) (hidle : s.status.busy = false) :
    hostRead off n s = .next (returnData off n (memRead 32 s off.toNat n.bytes) s) := by
  obtain ⟨b, hb⟩ := h.target_buf hoff
  exact hostRead_stored hb (by simp [hidle])

/-- Settles O36: a buffer write stores the bytes of its value in their order, and a buffer read is their
little-endian value. -/
theorem bufferLanesLittleEndian : Obligations.BufferLanesLittleEndian := by
  unfold Obligations.BufferLanesLittleEndian
  intro s off n v h hoff hidle
  obtain ⟨b, hb⟩ := h.target_buf hoff
  refine ⟨⟨memWrite s off.toNat n.bytes v.toNat, ?taken, writeBytes_eq _ _ _, fun j hj => ?inside,
    fun a ha => ?outside⟩, memRead 32 s off.toNat n.bytes, ?read, fun j _ => ?lane⟩
  case taken => rw [hostWrite, hb, unlessBusy_idle hidle]
  case inside =>
    rw [memWrite, readByte_writeBytes_inside _ _ _ _ (by simpa using hj), leBytes_getElem, ofNat_div_eq_extract]
  case outside => exact readByte_writeBytes_outside _ _ _ _ (by simpa using ha)
  case read => exact hostRead_buf_idle h hoff hidle
  case lane => exact memRead_extract s off.toNat n.bytes_le j

/-! ### What reads change (R57), and reads while BUSY = 1 (R241) -/

/-- STATUS has no part in what any other target holds. -/
theorem storedValue_withStatus {tg : Target} (htg : tg ≠ .reg .status) (off : Nat) (n : Width) (s : State)
    (st : Status) : storedValue off n { s with status := st } tg = storedValue off n s tg := by
  cases tg with
  | reg r =>
    cases r with
    | status => exact absurd rfl htg
    | _ => rfl
  | buf b => exact memRead_congr 32 fun _ _ => rfl

/-- The offsets whose reads while BUSY = 1 are stable stand clear of STATUS and of every result. -/
theorem stable_offset {off : BitVec 17}
    (h : off ∈ [(0x000 : BitVec 17), 0x004, 0x00C, 0x010, 0x014, 0x018, 0x01C, 0x020, 0x024, 0x03C]
      ∨ (0x100 ≤ off.toNat ∧ off.toNat < 0x200) ∨ 0x10000 ≤ off.toNat) :
    off.toNat ≠ 0x008 ∧ ¬((0x028 ≤ off.toNat ∧ off.toNat < 0x03C) ∨ (0x040 ≤ off.toNat ∧ off.toNat < 0x050)
      ∨ (0x200 ≤ off.toNat ∧ off.toNat < 0x240)) := by
  obtain hreg | hbuf := h
  · fin_cases hreg <;> decide
  · omega

/-- Settles O42: a read returns data and no more; at a stable offset the data is what is stored, in which STATUS has
no part. -/
theorem readsChangeNothing : Obligations.ReadsChangeNothing := by
  unfold Obligations.ReadsChangeNothing
  intro s off n h
  obtain ⟨d, hd⟩ := hostRead_taken s off n h
  refine ⟨⟨d, hd s.events s.reads⟩, fun hstable => ?_⟩
  obtain ⟨tg, ht⟩ := h.target
  obtain ⟨hstatus, hresult⟩ := stable_offset hstable
  have hres : tg.isResult = false := by
    cases hr : tg.isResult with
    | false => rfl
    | true => exact absurd (portTarget_isResult_offset ht hr) hresult
  have htg : tg ≠ .reg .status := by
    rintro rfl
    exact hstatus (portTarget_reg_offset ht)
  refine ⟨storedValue off.toNat n s tg, hostRead_stored ht (by simp [hres]), ?_⟩
  rw [← storedValue_withStatus htg off.toNat n s { s.status with busy := false }]
  exact hostRead_stored ht rfl

/-! ### Reads after the completion was seen (R66, R242) -/

/-- DONE is bit 1 of the STATUS word (R23). -/
theorem Status.toWord_done (st : Status) : st.toWord.getLsbD 1 = st.done := by
  simp only [Status.toWord, BitVec.getLsbD_append]
  simp

theorem Status.Legal.idle_of_done {st : Status} (h : st.Legal) (hd : st.done = true) : st.busy = false :=
  Bool.eq_false_iff.2 fun hb => by simp [h.not_done hb] at hd

/-- An idle read of a CODEBUF byte returns that byte (R37, R53). -/
theorem hostRead_codebuf_byte {s : State} (h : s.status.busy = false) {j : Nat} (hj : j < 64) :
    hostRead (BitVec.ofNat 17 (0x200 + j)) .byte s =
      .next (returnData (BitVec.ofNat 17 (0x200 + j)) .byte ((readByte s (0x200 + j)).setWidth 32) s) := by
  have hoff : (BitVec.ofNat 17 (0x200 + j)).toNat = 0x200 + j := by
    rw [BitVec.toNat_ofNat]
    omega
  have htakes : PortTakes s.nIn (BitVec.ofNat 17 (0x200 + j)).toNat .byte := by
    simp only [PortTakes, hoff, Width.bytes]
    omega
  rw [hostRead_buf_idle htakes (by omega) h, hoff, Width.bytes, memRead_one]

/-- Settles O45: a legal STATUS whose DONE was read as 1 has BUSY = 0, so the reads that follow return what is
stored. -/
theorem doneObservedThenResultsFinal : Obligations.DoneObservedThenResultsFinal := by
  unfold Obligations.DoneObservedThenResultsFinal
  intro s t hlegal hread hdone
  obtain rfl := Host.Outcome.next.inj ((hostRead_reg_notResult .status rfl s).symm.trans hread)
  obtain ⟨r, rs, hreads, hbit⟩ := hdone
  obtain ⟨rfl, -⟩ := List.cons.inj hreads
  have hidle : s.status.busy = false := hlegal.idle_of_done ((Status.toWord_done _).symm.trans hbit)
  have ht : (returnData 0x008 .word s.status.toWord s).status.busy = false := hidle
  refine ⟨hostRead_value ht .res0Lo (loHalf_eq_ofNat s.res0), hostRead_value ht .res0Hi (hiHalf_eq_ofNat s.res0),
    hostRead_value ht .res1Lo (loHalf_eq_ofNat s.res1), hostRead_value ht .res1Hi (hiHalf_eq_ofNat s.res1),
    hostRead_value ht .codeLen (BitVec.ofNat_toNat 32 s.codeLen).symm, fun j hj => ?_⟩
  exact hostRead_codebuf_byte ht hj

/-! ### Host accesses in the order of the steps (R58, R66) -/

/-- While reset is not asserted a step runs the event that stands first. -/
theorem step_event {s : State} {e : Event} {es : List Event} (hrst : s.rstIn = false) (he : s.events = e :: es) :
    step s = eventInRun e { s with events := es } := by
  simp [step, he, runEvent, hrst]

/-- Settles O9: the step is the event's own run. -/
theorem stepTakesOneHostAccess : Obligations.StepTakesOneHostAccess := by
  unfold Obligations.StepTakesOneHostAccess
  exact fun s es off n v hrst => ⟨step_event hrst, step_event hrst⟩

section Repeated

variable {s : State} (hrst : s.rstIn = false)
include hrst

/-- One taken read at the front of the order, whatever was read before it and whatever comes after: the data is the
same. -/
theorem core_run_read {off : BitVec 17} {n : Width} (h : PortTakes s.nIn off.toNat n) :
    ∃ d, ∀ k es rds,
      Sys2Proof.core.run (k + 1) { s with events := .read off n :: es, reads := rds } =
        Sys2Proof.core.run k { s with events := es, reads := ⟨off, n, d⟩ :: rds } := by
  obtain ⟨d, hd⟩ := hostRead_taken s off n h
  refine ⟨d, fun k es rds => core_run_succ k ?_⟩
  exact (step_event (s := { s with events := .read off n :: es, reads := rds }) hrst rfl).trans (hd es rds)

/-- Taken reads at the front of the order only add to the record, one entry each. -/
theorem core_run_reads (rs : List (BitVec 17 × Width)) (h : ∀ r ∈ rs, PortTakes s.nIn r.1.toNat r.2) (k : Nat)
    (es : List Event) (rds : List ReadBack) :
    ∃ ds : List ReadBack, ds.length = rs.length
      ∧ Sys2Proof.core.run (rs.length + k)
          { s with events := rs.map (fun r => .read r.1 r.2) ++ es, reads := rds } =
        Sys2Proof.core.run k { s with events := es, reads := ds ++ rds } := by
  induction rs generalizing rds with
  | nil => exact ⟨[], rfl, by simp⟩
  | cons r rs ih =>
    obtain ⟨hr, hrs⟩ := List.forall_mem_cons.1 h
    obtain ⟨d, hd⟩ := core_run_read hrst hr
    obtain ⟨ds, hlen, hrun⟩ := ih hrs (⟨r.1, r.2, d⟩ :: rds)
    refine ⟨ds ++ [⟨r.1, r.2, d⟩], by simp [hlen], ?_⟩
    rw [List.length_cons, Nat.add_right_comm, List.map_cons, List.cons_append, hd, hrun, List.append_assoc]
    rfl

end Repeated

/-- Settles O56: the first read, the reads between, and the first read again, whose data no read changed. -/
theorem repeatedReadsAgree : Obligations.RepeatedReadsAgree := by
  unfold Obligations.RepeatedReadsAgree
  intro s off n rs es hrst h hrs hevents
  obtain ⟨d, hd⟩ := core_run_read hrst h
  obtain ⟨ds, hlen, hrun⟩ := core_run_reads hrst rs hrs 1 (.read off n :: es) (⟨off, n, d⟩ :: s.reads)
  refine ⟨d, ds, hlen, ?_⟩
  calc Sys2Proof.core.run (rs.length + 2) s
      = Sys2Proof.core.run (rs.length + 1 + 1)
          { s with
            events := .read off n :: (rs.map (fun r => .read r.1 r.2) ++ .read off n :: es), reads := s.reads } := by
        rw [← hevents]
    _ = Sys2Proof.core.run (0 + 1)
          { s with events := .read off n :: es, reads := ds ++ ⟨off, n, d⟩ :: s.reads } := by
        rw [hd, hrun]
    _ = .next { s with events := es, reads := ⟨off, n, d⟩ :: (ds ++ ⟨off, n, d⟩ :: s.reads) } := by
        rw [hd]
        rfl

/-! ### Repeated writes (R57) -/

/-- A byte that is written stays so under writes at higher offsets. -/
theorem writeByte_writeBytes_of_lt {s : State} {k off : Nat} {b : Byte} (h : writeByte s k b = s) (hk : k < off)
    (bs : List Byte) : writeByte (writeBytes s off bs) k b = writeBytes s off bs := by
  induction bs generalizing s off with
  | nil => exact h
  | cons c bs ih =>
    have hmem : s.mem.insert k b = s.mem := congrArg State.mem h
    refine ih ?_ (by omega)
    simp only [writeByte, Memory.insert_of_lt hmem hk]

theorem writeBytes_writeBytes (s : State) (off : Nat) (bs : List Byte) :
    writeBytes (writeBytes s off bs) off bs = writeBytes s off bs := by
  induction bs generalizing s off with
  | nil => rfl
  | cons b bs ih =>
    have hbyte : writeByte (writeByte s off b) off b = writeByte s off b := by simp [writeByte]
    rw [writeBytes, writeBytes, writeByte_writeBytes_of_lt hbyte (Nat.lt_succ_self off), ih]

theorem withLo_withLo (v : DWord) (w : Word) : withLo (withLo v w) w = withLo v w := by
  have hhi : hiHalf (withLo v w) = hiHalf v := by
    refine BitVec.eq_of_toNat_eq ?_
    rw [hiHalf_toNat, withLo, toNat_append_eq_add]
    omega
  rw [withLo, hhi, withLo]

theorem withHi_withHi (v : DWord) (w : Word) : withHi (withHi v w) w = withHi v w := by
  have hlo : loHalf (withHi v w) = loHalf v := by
    refine BitVec.eq_of_toNat_eq ?_
    rw [loHalf_toNat, withHi, toNat_append_eq_add]
    omega
  rw [withHi, hlo, withHi]

theorem Status.acknowledged_acknowledged (v : Word) (st : Status) :
    (st.acknowledged v).acknowledged v = st.acknowledged v := by
  cases hv : v.getLsbD 2 <;> simp only [Status.acknowledged, hv, Bool.and_assoc, Bool.and_self] <;> rfl

/-- Input written again: it is dropped again while BUSY = 1, and an effect that keeps BUSY and repeats itself is
taken again otherwise. -/
theorem unlessBusy_repeat (f : State → State) {s t : State} (hbusy : (f s).status.busy = s.status.busy)
    (hf : f (f s) = f s) (ht : t = unlessBusy s (f s)) : unlessBusy t (f t) = t := by
  subst ht
  cases hb : s.status.busy with
  | true => simp [unlessBusy, hb, dropWrite, Status.dropped]
  | false => simp [unlessBusy, hb, hbusy, hf]

/-- Every register write but an issue and a soft reset leaves the same when it is repeated. -/
theorem writeReg_writeReg {r : Reg} {v : Word} (s : State) (hcmd : r ≠ .cmd)
    (hsrst : r = .ctrl → v.getLsbD 1 = false) : writeReg r v (writeReg r v s) = writeReg r v s := by
  cases r with
  | cmd => exact absurd rfl hcmd
  | ctrl => simp only [writeReg, writeCtrl, hsrst rfl, Bool.false_eq_true, if_false]
  | status => simp only [writeReg, acknowledge, Status.acknowledged_acknowledged]
  | seed => exact unlessBusy_repeat (fun s => { s with seed := v }) rfl rfl rfl
  | offset => exact unlessBusy_repeat (fun s => { s with offset := v }) rfl rfl rfl
  | count => exact unlessBusy_repeat (fun s => { s with count := v }) rfl rfl rfl
  | alen => exact unlessBusy_repeat (fun s => { s with alen := v.setWidth 9 }) rfl rfl rfl
  | opaLo => exact unlessBusy_repeat (fun s => { s with opa := withLo s.opa v }) rfl (by simp only [withLo_withLo]) rfl
  | opaHi => exact unlessBusy_repeat (fun s => { s with opa := withHi s.opa v }) rfl (by simp only [withHi_withHi]) rfl
  | codeLen => exact unlessBusy_repeat (fun s => { s with codeLen := v.setWidth 7 }) rfl rfl rfl
  | id | res0Lo | res0Hi | res1Lo | res1Hi | inbufSize | digest0 | digest1 | digest2 | digest3 => rfl

/-- Settles O57: the target's own write repeats itself, and a soft reset of a block just reset only counts on. -/
theorem writesAreIdempotent : Obligations.WritesAreIdempotent := by
  unfold Obligations.WritesAreIdempotent
  intro s t off n v hwrite hcmd
  have hnIn := (hostWrite_effect hwrite).nIn_eq
  obtain ⟨r, hr, ht⟩ | ⟨b, hb, ht⟩ := hostWrite_next hwrite
  · have hoff := portTarget_reg_offset hr
    have hagain : hostWrite off n v t = .next (writeReg r v t) := by rw [hostWrite, hnIn, hr]
    have hr_cmd : r ≠ .cmd := by
      rintro rfl
      exact hcmd (BitVec.eq_of_toNat_eq hoff)
    refine ⟨fun hreset => ?_, fun hctrl hv => ?_⟩
    · have hsrst : r = .ctrl → v.getLsbD 1 = false := by
        rintro rfl
        exact Bool.eq_false_iff.2 fun hv => hreset ⟨BitVec.eq_of_toNat_eq hoff, hv⟩
      rw [hagain, ht, writeReg_writeReg s hr_cmd hsrst]
    · subst hctrl
      have hrc : r = .ctrl := by
        revert hoff
        cases r <;> decide
      subst hrc
      rw [hagain, ht]
      simp only [writeReg, writeCtrl, hv, if_true]
      rfl
  · obtain ⟨hle, -⟩ := portTarget_buf hb
    refine ⟨fun _ => ?_, fun hctrl => ?_⟩
    · rw [hostWrite, hnIn, hb]
      exact congrArg _ (unlessBusy_repeat (fun s => memWrite s off.toNat n.bytes v.toNat)
        (by simp [memWrite]) (writeBytes_writeBytes _ _ _) ht)
    · subst hctrl
      exact absurd hle (by decide)

end Sys2Proof.Machine
end

section
/-! PROOFS. The fields of a command word, the decoder and the encoder as converses, the opcode map, the assembler, and
illegal words (spec/30_encoding.md). -/

namespace Sys2Proof.Machine

/-! ### The fields of a word (R80) -/

theorem opField_toNat (w : Word) : (opField w).toNat = w.toNat % 2 ^ 8 := by
  rw [opField, extractLsb'_toNat_eq_div, pow_zero, Nat.div_one]

theorem immField_toNat (w : Word) : (immField w).toNat = w.toNat / 2 ^ 8 % 2 ^ 8 :=
  extractLsb'_toNat_eq_div w 8 8

theorem seedField_toNat (w : Word) : (seedField w).toNat = w.toNat / 2 ^ 16 % 2 :=
  extractLsb'_toNat_eq_div w 16 1

theorem rsvField_toNat (w : Word) : (rsvField w).toNat = w.toNat / 2 ^ 17 := by
  rw [rsvField, extractLsb'_toNat_eq_div]
  exact Nat.mod_eq_of_lt (by omega)

theorem cmdFormat_toNat (s : BitVec 1) (imm op : BitVec 8) :
    (cmdFormat s imm op).toNat = s.toNat * 2 ^ 16 + imm.toNat * 2 ^ 8 + op.toNat := by
  simp only [cmdFormat, toNat_append_eq_add, BitVec.toNat_zero]
  omega

@[simp] theorem opField_cmdFormat (s : BitVec 1) (imm op : BitVec 8) : opField (cmdFormat s imm op) = op :=
  BitVec.eq_of_toNat_eq (by rw [opField_toNat, cmdFormat_toNat]; omega)

@[simp] theorem immField_cmdFormat (s : BitVec 1) (imm op : BitVec 8) : immField (cmdFormat s imm op) = imm :=
  BitVec.eq_of_toNat_eq (by rw [immField_toNat, cmdFormat_toNat]; omega)

@[simp] theorem seedField_cmdFormat (s : BitVec 1) (imm op : BitVec 8) : seedField (cmdFormat s imm op) = s :=
  BitVec.eq_of_toNat_eq (by rw [seedField_toNat, cmdFormat_toNat]; omega)

@[simp] theorem rsvField_cmdFormat (s : BitVec 1) (imm op : BitVec 8) : rsvField (cmdFormat s imm op) = 0#15 :=
  BitVec.eq_of_toNat_eq (by rw [rsvField_toNat, cmdFormat_toNat, BitVec.toNat_zero]; omega)

/-- The four fields make up the word. -/
theorem append_fields (w : Word) : rsvField w ++ seedField w ++ immField w ++ opField w = w := by
  refine BitVec.eq_of_toNat_eq ?_
  simp only [toNat_append_eq_add, rsvField_toNat, seedField_toNat, immField_toNat, opField_toNat]
  omega

/-- A word without reserved bits has the format of R80. -/
theorem cmdFormat_of_fields {w : Word} {s : BitVec 1} {imm : BitVec 8} {op : Nat} (hrsv : rsvField w = 0)
    (hs : seedField w = s) (himm : immField w = imm) (hop : (opField w).toNat = op) :
    cmdFormat s imm (BitVec.ofNat 8 op) = w := by
  rw [cmdFormat, ← hop, BitVec.ofNat_toNat, BitVec.setWidth_eq, ← hs, ← himm, show 0#15 = rsvField w from hrsv.symm,
    append_fields]

/-! ### Decoding and encoding (R81, R85) -/

theorem needNoSeed_eq_ok {w : Word} {i j : Instr} : needNoSeed w i = .ok j ↔ seedField w = 0#1 ∧ i = j := by
  by_cases h : seedField w = 0#1 <;> simp [needNoSeed, h]

theorem needNoImm_eq_ok {w : Word} {r : Except Reject Instr} {j : Instr} :
    needNoImm w r = .ok j ↔ immField w = 0#8 ∧ r = .ok j := by
  by_cases h : immField w = 0#8 <;> simp [needNoImm, h]

theorem immFits_iff {amt : Nat} : immFits amt = true ↔ amt ≤ 255 := decide_eq_true_iff

/-- IMM8 as a rotate's amount fits IMM8. -/
theorem immFits_immField (w : Word) : immFits (immField w).toNat = true := immFits_iff.2 (by omega)

/-- The amount read from IMM8 is written back as it was. -/
theorem ofNat_immField (w : Word) : BitVec.ofNat 8 (immField w).toNat = immField w := by
  rw [BitVec.ofNat_toNat, BitVec.setWidth_eq]

theorem decode_encode {i : Instr} (h : i.wf = true) : decode (encode i) = .ok i := by
  cases i with
  | rotl32 amt | rotl64 amt =>
    have hamt : amt % 256 = amt := Nat.mod_eq_of_lt (Nat.lt_succ_of_le (immFits_iff.1 h))
    simp [encode, decode, needNoSeed, hamt]
  | fmix32 | fmix64 | hash32 | hash128 | hash128s | encode | decode => rfl

/-- The line of R85 that takes a word fixes its fields, and these are the fields of the command's own word. -/
theorem wf_and_encode_of_decode {w : Word} {i : Instr} (h : decode w = .ok i) : i.wf = true ∧ encode i = w := by
  unfold decode at h
  split at h
  case isTrue => simp at h
  case isFalse hrsv =>
    have hrsv : rsvField w = 0 := not_not.1 hrsv
    split at h
    case h_1 hop | h_2 hop =>
      obtain ⟨hseed, rfl⟩ := needNoSeed_eq_ok.1 h
      exact ⟨immFits_immField w, cmdFormat_of_fields hrsv hseed (ofNat_immField w).symm hop⟩
    case h_3 hop | h_4 hop | h_5 hop | h_7 hop | h_8 hop =>
      obtain ⟨himm, h⟩ := needNoImm_eq_ok.1 h
      obtain ⟨hseed, rfl⟩ := needNoSeed_eq_ok.1 h
      exact ⟨rfl, cmdFormat_of_fields hrsv hseed himm hop⟩
    case h_6 hop =>
      obtain ⟨himm, h⟩ := needNoImm_eq_ok.1 h
      split at h
      case isTrue hseed =>
        obtain rfl := Except.ok.inj h
        exact ⟨rfl, cmdFormat_of_fields hrsv hseed himm hop⟩
      case isFalse hseed =>
        obtain rfl := Except.ok.inj h
        have hseed : seedField w = 1 := (BitVec.eq_zero_or_eq_one _).resolve_left hseed
        exact ⟨rfl, cmdFormat_of_fields hrsv hseed himm hop⟩
    case h_9 => simp at h

/-- The decoder inverts the encoder on the well-formed commands. -/
theorem decode_eq_ok_iff {w : Word} {i : Instr} : decode w = .ok i ↔ i.wf = true ∧ encode i = w :=
  ⟨wf_and_encode_of_decode, fun ⟨hwf, hw⟩ => hw ▸ decode_encode hwf⟩

/-- A word with the fields of a command's own word decodes to the command. -/
theorem decode_of_fields {w : Word} {i : Instr} {s : BitVec 1} {imm : BitVec 8} {op : Nat} (hwf : i.wf = true)
    (henc : encode i = cmdFormat s imm (BitVec.ofNat 8 op)) (hrsv : rsvField w = 0) (hs : seedField w = s)
    (himm : immField w = imm) (hop : (opField w).toNat = op) : decode w = .ok i :=
  decode_eq_ok_iff.2 ⟨hwf, henc.trans (cmdFormat_of_fields hrsv hs himm hop)⟩

/-- The bytes of a word carry it (R51). -/
theorem decodeBytes_leBytes (w : Word) : decodeBytes (leBytes 4 w.toNat) = decode w := by
  rw [decodeBytes, if_pos (leBytes_length 4 _), leNat_leBytes, Nat.mod_eq_of_lt (by omega), BitVec.ofNat_toNat,
    BitVec.setWidth_eq]

/-- Settles O1: the decoder inverts the encoder, and the bytes of a word carry it. -/
theorem decodeOfEncode : Obligations.DecodeOfEncode := by
  unfold Obligations.DecodeOfEncode
  exact fun i hwf => ⟨decode_encode hwf, (decodeBytes_leBytes _).trans (decode_encode hwf)⟩

/-- The bytes of a sequence's little-endian value are the sequence again. -/
theorem leBytes_leNat (bs : List Byte) : leBytes bs.length (leNat bs) = bs := by
  induction bs with
  | nil => rfl
  | cons b bs ih =>
    have hlow : BitVec.ofNat 8 (b.toNat + 256 * leNat bs) = b := BitVec.eq_of_toNat_eq (by simp [b.isLt])
    have hhigh : (b.toNat + 256 * leNat bs) / 256 = leNat bs := by omega
    rw [List.length_cons, leNat, leBytes, hlow, hhigh, ih]

/-- Settles O2: what the decoder takes is the command's own word, and four bytes are those of their value. -/
theorem encodeOfDecode : Obligations.EncodeOfDecode := by
  unfold Obligations.EncodeOfDecode
  refine ⟨fun w i => wf_and_encode_of_decode, fun bs i h => ?_⟩
  unfold decodeBytes at h
  split at h
  case isTrue hlen =>
    have hlt : leNat bs < 2 ^ 32 := by simpa [hlen] using leNat_lt bs
    refine ⟨hlen, ?_⟩
    rw [encodeBytes, (wf_and_encode_of_decode h).2, BitVec.toNat_ofNat, Nat.mod_eq_of_lt hlt, ← hlen, leBytes_leNat]
  case isFalse => simp at h

/-! ### The opcode map (R84) -/

/-- The rows with the full mask. -/
theorem decode_eq_ok_iff_fullMask {w : Word} {i : Instr} (hwf : i.wf = true) :
    decode w = .ok i ↔ w &&& 0xFFFFFFFF = encode i := by
  rw [decode_eq_ok_iff, show w &&& 0xFFFFFFFF = w from BitVec.and_allOnes]
  simp only [hwf, true_and, eq_comm]

/-- The rotates' mask keeps every field but IMM8. -/
theorem fields_and_rotateMask (w : Word) :
    opField (w &&& 0xFFFF00FF) = opField w ∧ seedField (w &&& 0xFFFF00FF) = seedField w
      ∧ rsvField (w &&& 0xFFFF00FF) = rsvField w := by
  simp only [opField, seedField, rsvField, BitVec.extractLsb'_and]
  exact ⟨BitVec.and_allOnes, BitVec.and_allOnes, BitVec.and_allOnes⟩

/-- A word that a rotate's row selects has that OP, any IMM8, and nothing else. -/
theorem cmdFormat_of_rotateMask {w : Word} {op : BitVec 8} (h : w &&& 0xFFFF00FF = cmdFormat 0 0 op) :
    cmdFormat 0 (immField w) op = w := by
  obtain ⟨hop, hseed, hrsv⟩ := fields_and_rotateMask w
  rw [h] at hop hseed hrsv
  rw [opField_cmdFormat] at hop
  rw [seedField_cmdFormat] at hseed
  rw [rsvField_cmdFormat] at hrsv
  simpa [hop] using cmdFormat_of_fields hrsv.symm hseed.symm rfl rfl

/-- The rows with the rotates' mask, for either of the two: the amount is free. -/
theorem exists_decode_eq_ok_iff_rotateMask {w : Word} {rot : Nat → Instr} {op : BitVec 8}
    (hwf : ∀ amt, (rot amt).wf = immFits amt)
    (henc : ∀ amt, encode (rot amt) = cmdFormat 0 (BitVec.ofNat 8 amt) op) :
    (∃ amt, decode w = .ok (rot amt)) ↔ w &&& 0xFFFF00FF = cmdFormat 0 0 op := by
  constructor
  · rintro ⟨amt, h⟩
    rw [← (wf_and_encode_of_decode h).2, henc, Laws.Row.cmdFormat_rotate]
  · intro h
    refine ⟨(immField w).toNat, decode_eq_ok_iff.2 ⟨?_, ?_⟩⟩
    · rw [hwf, immFits_immField]
    · rw [henc, ofNat_immField, cmdFormat_of_rotateMask h]

/-- Settles O3, row by row: a selected word is the command's own word, for the rotates with any IMM8. -/
theorem commandSelectedByMatchAndMask : Obligations.CommandSelectedByMatchAndMask := by
  unfold Obligations.CommandSelectedByMatchAndMask
  exact fun cmd =>
    ⟨exists_decode_eq_ok_iff_rotateMask (rot := .rotl32) (op := 0x01) (fun _ => rfl) fun _ => rfl,
      exists_decode_eq_ok_iff_rotateMask (rot := .rotl64) (op := 0x02) (fun _ => rfl) fun _ => rfl,
      decode_eq_ok_iff_fullMask rfl, decode_eq_ok_iff_fullMask rfl, decode_eq_ok_iff_fullMask rfl,
      decode_eq_ok_iff_fullMask rfl, decode_eq_ok_iff_fullMask rfl, decode_eq_ok_iff_fullMask rfl,
      decode_eq_ok_iff_fullMask rfl⟩

/-! ### The rotate amount (R82) and the assembler (R88) -/

/-- The word of a rotate whose amount fits IMM8, as a number. -/
theorem cmdFormat_eq_ofNat {op n : Nat} (hop : op ≤ 255) (hn : n ≤ 255) :
    cmdFormat 0 (BitVec.ofNat 8 n) (BitVec.ofNat 8 op) = BitVec.ofNat 32 (op + n * 2 ^ 8) := by
  refine BitVec.eq_of_toNat_eq ?_
  simp only [cmdFormat_toNat, BitVec.ofNat_eq_ofNat, BitVec.toNat_ofNat]
  omega

/-- The same word put together from its parts. -/
theorem cmdFormat_eq_or_shiftLeft {op n : Nat} (hop : op ≤ 255) (hn : n ≤ 255) :
    cmdFormat 0 (BitVec.ofNat 8 n) (BitVec.ofNat 8 op) = BitVec.ofNat 32 op ||| (BitVec.ofNat 32 n <<< 8) := by
  have hor : op + n * 2 ^ 8 = op ||| n <<< 8 := by
    rw [Nat.or_comm, ← Nat.shiftLeft_add_eq_or_of_lt (by omega), Nat.shiftLeft_eq, Nat.add_comm]
  have hshift : BitVec.ofNat 32 (n <<< 8) = BitVec.ofNat 32 n <<< 8 :=
    BitVec.eq_of_toNat_eq (by simp [Nat.shiftLeft_eq])
  rw [cmdFormat_eq_ofNat hop hn, hor, BitVec.ofNat_or, hshift]

theorem exec_rotl32_of_lt {n : Nat} (hn : n < 32) (s : State) :
    exec (.rotl32 n) s = .next (s.succeeded ((rotl32 (opa32 s) n).setWidth 64) 0) := by
  rw [exec, execRotl32, if_neg (Nat.not_le.2 hn), conclude_setResult]

theorem exec_rotl64_of_lt {n : Nat} (hn : n < 64) (s : State) :
    exec (.rotl64 n) s = .next (s.succeeded (rotl64 s.opa n) 0) := by
  rw [exec, execRotl64, if_neg (Nat.not_le.2 hn), conclude_setResult]

theorem exec_rotl32_of_ge {n : Nat} (hn : 32 ≤ n) (s : State) :
    exec (.rotl32 n) s = .next (s.failed .rotRange) := by
  rw [exec, execRotl32, if_pos hn, conclude_failed]

theorem exec_rotl64_of_ge {n : Nat} (hn : 64 ≤ n) (s : State) :
    exec (.rotl64 n) s = .next (s.failed .rotRange) := by
  rw [exec, execRotl64, if_pos hn, conclude_failed]

/-- Settles O4: the amount stands in IMM8 of the command's own word, and the comparison of R100 and R102 decides. -/
theorem rotateAmountIsImm8 : Obligations.RotateAmountIsImm8 := by
  unfold Obligations.RotateAmountIsImm8
  refine ⟨fun cmd amt h => ?_, fun n hn => ⟨decode_eq_ok_iff.2 ⟨immFits_iff.2 hn, ?_⟩,
      decode_eq_ok_iff.2 ⟨immFits_iff.2 hn, ?_⟩⟩, fun n s =>
    ⟨fun hn => ⟨_, exec_rotl32_of_lt hn s⟩, fun hn => ⟨_, exec_rotl64_of_lt hn s⟩,
      fun hn _ => exec_rotl32_of_ge hn s, fun hn _ => exec_rotl64_of_ge hn s⟩⟩
  · obtain ⟨hle, himm⟩ : amt ≤ 255 ∧ immField cmd = BitVec.ofNat 8 amt := by
      obtain h | h := h
      all_goals
        obtain ⟨hwf, rfl⟩ := decode_eq_ok_iff.1 h
        exact ⟨immFits_iff.1 hwf, immField_cmdFormat _ _ _⟩
    rw [← immField_toNat, himm, BitVec.toNat_ofNat]
    omega
  · exact cmdFormat_eq_ofNat (by decide) hn
  · exact cmdFormat_eq_ofNat (by decide) hn

/-- The assembler takes a well-formed command. -/
theorem assemble_command {i : Instr} (hwf : i.wf = true) : (CommandText.command i).assemble = some (encode i) :=
  if_pos hwf

/-- Settles O5: the rotates' words put together from OP and amount, and one word each for the other commands. -/
theorem assemblerWords : Obligations.AssemblerWords := by
  unfold Obligations.AssemblerWords
  refine ⟨fun n hn => ⟨?_, ?_⟩, fun n hn => ⟨if_neg ?_, if_neg ?_⟩, rfl, rfl, rfl, rfl, rfl, rfl, rfl, fun _ => rfl,
    fun n s => ⟨fun hn _ => exec_rotl32_of_ge hn s, fun hn _ => exec_rotl64_of_ge hn s⟩⟩
  · rw [assemble_command (i := .rotl32 n) (immFits_iff.2 hn)]
    exact congrArg some (cmdFormat_eq_or_shiftLeft (by decide) hn)
  · rw [assemble_command (i := .rotl64 n) (immFits_iff.2 hn)]
    exact congrArg some (cmdFormat_eq_or_shiftLeft (by decide) hn)
  · exact fun hwf => Nat.not_le.2 hn (immFits_iff.1 hwf)
  · exact fun hwf => Nat.not_le.2 hn (immFits_iff.1 hwf)

/-! ### Illegal words (R86) -/

/-- The words of the nine commands, by their fields. -/
theorem exists_decode_eq_ok_iff {w : Word} :
    (∃ i, decode w = .ok i) ↔
      (opField w).toNat ∈ [0x01, 0x02, 0x03, 0x04, 0x10, 0x11, 0x20, 0x21] ∧ rsvField w = 0#15
        ∧ (immField w = 0#8 ∨ (opField w).toNat = 0x01 ∨ (opField w).toNat = 0x02)
        ∧ (seedField w = 0#1 ∨ (opField w).toNat = 0x11) := by
  constructor
  · rintro ⟨i, h⟩
    rw [← (wf_and_encode_of_decode h).2]
    cases i <;> simp [encode]
  · rintro ⟨hop, hrsv, himm, hseed⟩
    simp only [List.mem_cons, List.not_mem_nil, or_false] at hop
    have hseed0 (h : (opField w).toNat ≠ 0x11) : seedField w = 0 := hseed.resolve_right h
    have himm0 (h : 0x02 < (opField w).toNat) : immField w = 0 := himm.resolve_right (by omega)
    obtain hop | hop | hop | hop | hop | hop | hop | hop := hop
    · exact ⟨.rotl32 _, decode_of_fields (immFits_immField w) rfl hrsv (hseed0 (by omega)) (ofNat_immField w).symm hop⟩
    · exact ⟨.rotl64 _, decode_of_fields (immFits_immField w) rfl hrsv (hseed0 (by omega)) (ofNat_immField w).symm hop⟩
    · exact ⟨.fmix32, decode_of_fields rfl rfl hrsv (hseed0 (by omega)) (himm0 (by omega)) hop⟩
    · exact ⟨.fmix64, decode_of_fields rfl rfl hrsv (hseed0 (by omega)) (himm0 (by omega)) hop⟩
    · exact ⟨.hash32, decode_of_fields rfl rfl hrsv (hseed0 (by omega)) (himm0 (by omega)) hop⟩
    · obtain hs | hs := BitVec.eq_zero_or_eq_one (seedField w)
      · exact ⟨.hash128, decode_of_fields rfl rfl hrsv hs (himm0 (by omega)) hop⟩
      · exact ⟨.hash128s, decode_of_fields rfl rfl hrsv hs (himm0 (by omega)) hop⟩
    · exact ⟨.encode, decode_of_fields rfl rfl hrsv (hseed0 (by omega)) (himm0 (by omega)) hop⟩
    · exact ⟨.decode, decode_of_fields rfl rfl hrsv (hseed0 (by omega)) (himm0 (by omega)) hop⟩

/-- Settles O6: the fields decide which words are illegal, and the engine can only report an illegal word in CMD. -/
theorem illegalWordsStoredAndReported : Obligations.IllegalWordsStoredAndReported := by
  unfold Obligations.IllegalWordsStoredAndReported
  refine fun w => ⟨?_, fun s hillegal hidle => ⟨issue w s, ?_, rfl, rfl, ?_⟩⟩
  · rw [← not_exists, exists_decode_eq_ok_iff]
    simp only [← BitVec.toNat_inj, opField_toNat, rsvField_toNat, immField_toNat, seedField_toNat, BitVec.toNat_zero,
      not_and_or, not_or, Nat.mod_two_ne_zero, ne_eq]
  · exact (hostWrite_reg .cmd w s).trans (congrArg _ (unlessBusy_idle hidle _))
  · obtain ⟨hidle, -⟩ | ⟨-, i, hi, -⟩ | ⟨-, h⟩ := engineTurn_cases (issue w s)
    · simp at hidle
    · exact absurd hi (hillegal i)
    · exact h

/-- Settles O7, by running the decoder on the ten words. -/
theorem sampleWordsDecode : Obligations.SampleWordsDecode := by
  unfold Obligations.SampleWordsDecode
  decide

end Sys2Proof.Machine
end

section
/-! PROOFS. The BitMixer: the rotates and their error, the finalization functions against the reference and as
bijections (spec/40_bitmixer.md), and what R108 says every command leaves unchanged. -/

namespace Sys2Proof.Machine

/-! ### Rotation (R13, R100, R102) -/

section Rotate

variable {w : Nat} (v : BitVec w)

/-- The two shifts of R13 are a rotation. -/
theorem shiftLeft_or_ushiftRight_eq_rotateLeft {n : Nat} (hn : n < w) :
    (if n = 0 then v else (v <<< n) ||| (v >>> (w - n))) = v.rotateLeft n := by
  rw [BitVec.rotateLeft_def, Nat.mod_eq_of_lt hn]
  split
  case isTrue h0 => rw [h0, Nat.sub_zero, BitVec.shiftLeft_zero, BitVec.ushiftRight_eq_zero w.le_refl, BitVec.or_zero]
  case isFalse => rfl

/-- Left by one less than the width is right by 1. -/
theorem rotateLeft_pred_eq_rotateRight_one (hw : 1 < w) : v.rotateLeft (w - 1) = v.rotateRight 1 := by
  rw [BitVec.rotateLeft_def, BitVec.rotateRight_def, Nat.mod_eq_of_lt hw, Nat.mod_eq_of_lt (by omega),
    Nat.sub_sub_self hw.le, BitVec.or_comm]

end Rotate

theorem rotl32_eq_rotateLeft (v : Word) {n : Nat} (hn : n < 32) : rotl32 v n = v.rotateLeft n :=
  shiftLeft_or_ushiftRight_eq_rotateLeft v hn

theorem rotl64_eq_rotateLeft (v : DWord) {n : Nat} (hn : n < 64) : rotl64 v n = v.rotateLeft n :=
  shiftLeft_or_ushiftRight_eq_rotateLeft v hn

/-- Half the width swaps the halves. -/
theorem rotl64_half (v : DWord) : rotl64 v 32 = loHalf v ++ hiHalf v := by
  rw [rotl64_eq_rotateLeft v (by decide)]
  refine BitVec.eq_of_getLsbD_eq fun i hi => ?_
  rw [BitVec.getLsbD_append, BitVec.getLsbD_rotateLeft]
  by_cases hlow : i < 32
  · simp [hlow, hiHalf]
  · have hhigh : i - 32 < 32 := by omega
    simp [hlow, hhigh, hi, loHalf]

theorem opa32_eq_extract (s : State) : opa32 s = s.opa.extractLsb' 0 32 := BitVec.setWidth_eq_extractLsb' (by decide)

/-- ROTL32 below the width, as a rotation of OPA[31:0]. -/
theorem exec_rotl32_rotates {n : Nat} (hn : n < 32) (s : State) :
    exec (.rotl32 n) s = .next (s.succeeded (((s.opa.extractLsb' 0 32).rotateLeft n).setWidth 64) 0) := by
  rw [exec_rotl32_of_lt hn, rotl32_eq_rotateLeft _ hn, opa32_eq_extract]

/-- ROTL64 below the width, as a rotation of OPA. -/
theorem exec_rotl64_rotates {n : Nat} (hn : n < 64) (s : State) :
    exec (.rotl64 n) s = .next (s.succeeded (s.opa.rotateLeft n) 0) := by
  rw [exec_rotl64_of_lt hn, rotl64_eq_rotateLeft _ hn]

/-- Settles O10: the amount's comparison with 32 decides, and below it the two shifts of R13 rotate OPA[31:0]. -/
theorem rotl32Result : Obligations.Rotl32Result := by
  unfold Obligations.Rotl32Result
  refine ⟨fun n hn => decode_eq_ok_iff.2 ⟨immFits_iff.2 hn, cmdFormat_eq_ofNat (by decide) hn⟩,
    fun s amt h => exec_rotl32_rotates h s, fun s amt h => exec_rotl32_of_ge h s, fun s => ?_, fun s => ?_⟩
  · rw [exec_rotl32_of_lt (by decide), opa32_eq_extract, rotl32, if_pos rfl]
  · rw [exec_rotl32_rotates (by decide), rotateLeft_pred_eq_rotateRight_one _ (by decide)]

/-- Settles O11: the amount's comparison with 64 decides, and below it the two shifts of R13 rotate OPA. -/
theorem rotl64Result : Obligations.Rotl64Result := by
  unfold Obligations.Rotl64Result
  refine ⟨fun n hn => decode_eq_ok_iff.2 ⟨immFits_iff.2 hn, cmdFormat_eq_ofNat (by decide) hn⟩,
    fun s amt h => exec_rotl64_rotates h s, fun s amt h => exec_rotl64_of_ge h s, fun s => ?_, fun s => ?_,
    fun s => ?_⟩
  · rw [exec_rotl64_of_lt (by decide), rotl64, if_pos rfl]
  · rw [exec_rotl64_of_lt (by decide), rotl64_half, loHalf, hiHalf]
  · rw [exec_rotl64_rotates (by decide), rotateLeft_pred_eq_rotateRight_one _ (by decide)]

/-! ### Finalization (R104 to R107) -/

section XorShift

variable {w : Nat}

/-- The step `h ^= h >> k` of R104 and R106. -/
def xorShift (k : Nat) (v : BitVec w) : BitVec w := v ^^^ (v >>> k)

theorem xorShift_toNat (k : Nat) (v : BitVec w) : (xorShift k v).toNat = v.toNat ^^^ v.toNat / 2 ^ k := by
  rw [xorShift, BitVec.toNat_xor, BitVec.toNat_ushiftRight, Nat.shiftRight_eq_div_pow]

theorem xorShift_xor (k : Nat) (u v : BitVec w) : xorShift k (u ^^^ v) = xorShift k u ^^^ xorShift k v := by
  simp only [xorShift, BitVec.ushiftRight_xor_distrib]
  ac_rfl

/-- A value that is its own shift to the right is zero. -/
theorem eq_zero_of_xorShift_eq_zero {k : Nat} (hk : 0 < k) {v : BitVec w} (h : xorShift k v = 0#w) : v = 0#w := by
  have hshift : v.toNat / 2 ^ k = v.toNat := by
    rw [← Nat.shiftRight_eq_div_pow, ← BitVec.toNat_ushiftRight, ← BitVec.xor_eq_zero_iff.1 h]
  exact BitVec.eq_of_toNat_eq ((Nat.div_eq_self.1 hshift).resolve_right (Nat.one_lt_two_pow hk.ne').ne')

/-- The step is linear over exclusive or and only zero gives zero. -/
theorem xorShift_injective {k : Nat} (hk : 0 < k) : Function.Injective (xorShift k : BitVec w → BitVec w) := by
  intro u v h
  have hdiff : xorShift k (u ^^^ v) = 0#w := by rw [xorShift_xor, BitVec.xor_eq_zero_iff.2 h]
  exact BitVec.xor_eq_zero_iff.1 (eq_zero_of_xorShift_eq_zero hk hdiff)

/-- A product with a constant, in natural numbers. -/
theorem mul_ofNat_toNat (v : BitVec w) (c : Nat) : (v * BitVec.ofNat w c).toNat = v.toNat * c % 2 ^ w := by
  rw [BitVec.toNat_mul, BitVec.toNat_ofNat, Nat.mul_mod_mod]

/-- The shape of R104 and R106: where both multipliers have inverses, each step is injective. -/
theorem xorShift_mul_comp_bijective {k₁ k₂ k₃ : Nat} {c₁ c₂ : BitVec w} (hk₁ : 0 < k₁) (hk₂ : 0 < k₂) (hk₃ : 0 < k₃)
    (hc₁ : IsUnit c₁) (hc₂ : IsUnit c₂) :
    Function.Bijective (xorShift k₃ ∘ (· * c₂) ∘ xorShift k₂ ∘ (· * c₁) ∘ xorShift k₁) := by
  rw [← Finite.injective_iff_bijective]
  exact (xorShift_injective hk₃).comp <| hc₂.mul_left_injective.comp <| (xorShift_injective hk₂).comp <|
    hc₁.mul_left_injective.comp <| xorShift_injective hk₁

end XorShift

theorem fmix32_eq_comp :
    fmix32 = xorShift 16 ∘ (· * 0xc2b2ae35#32) ∘ xorShift 13 ∘ (· * 0x85ebca6b#32) ∘ xorShift 16 := rfl

theorem fmix64_eq_comp :
    fmix64 =
      xorShift 33 ∘ (· * 0xc4ceb9fe1a85ec53#64) ∘ xorShift 33 ∘ (· * 0xff51afd7ed558ccd#64) ∘ xorShift 33 := rfl

/-- fmix32 in natural numbers. -/
theorem fmix32_toNat (v : Word) : (fmix32 v).toNat = Reference.fmix32 v.toNat := by
  simp only [fmix32_eq_comp, Function.comp_apply, xorShift_toNat, mul_ofNat_toNat, Reference.fmix32]

/-- fmix64 in natural numbers. -/
theorem fmix64_toNat (v : DWord) : (fmix64 v).toNat = Reference.fmix64 v.toNat := by
  simp only [fmix64_eq_comp, Function.comp_apply, xorShift_toNat, mul_ofNat_toNat, Reference.fmix64]

/-- The multipliers are odd, so they have inverses modulo 2^32. -/
theorem fmix32_bijective : Function.Bijective fmix32 := by
  have hmul₁ : IsUnit 0x85ebca6b#32 := .of_mul_eq_one 0xa5cb9243#32 (by decide)
  have hmul₂ : IsUnit 0xc2b2ae35#32 := .of_mul_eq_one 0x7ed1b41d#32 (by decide)
  rw [fmix32_eq_comp]
  exact xorShift_mul_comp_bijective (by decide) (by decide) (by decide) hmul₁ hmul₂

/-- The multipliers are odd, so they have inverses modulo 2^64. -/
theorem fmix64_bijective : Function.Bijective fmix64 := by
  have hmul₁ : IsUnit 0xff51afd7ed558ccd#64 := .of_mul_eq_one 0x4f74430c22a54005#64 (by decide)
  have hmul₂ : IsUnit 0xc4ceb9fe1a85ec53#64 := .of_mul_eq_one 0x9cb4b2f8129337db#64 (by decide)
  rw [fmix64_eq_comp]
  exact xorShift_mul_comp_bijective (by decide) (by decide) (by decide) hmul₁ hmul₂

/-- FMIX32 on the 32-bit mixer input. -/
theorem exec_fmix32 (s : State) : exec .fmix32 s = .next (s.succeeded ((fmix32 (opa32 s)).setWidth 64) 0) :=
  conclude_setResult s _ 0

/-- FMIX64 on OPA. -/
theorem exec_fmix64 (s : State) : exec .fmix64 s = .next (s.succeeded (fmix64 s.opa) 0) :=
  conclude_setResult s _ 0

/-- FMIX32 in natural numbers. -/
theorem exec_fmix32_reference (s : State) :
    exec .fmix32 s = .next (s.succeeded (BitVec.ofNat 64 (Reference.fmix32 (s.opa.toNat % 2 ^ 32))) 0) := by
  rw [exec_fmix32, ← BitVec.ofNat_toNat, fmix32_toNat, opa32, BitVec.toNat_setWidth]

/-- FMIX64 in natural numbers. -/
theorem exec_fmix64_reference (s : State) :
    exec .fmix64 s = .next (s.succeeded (BitVec.ofNat 64 (Reference.fmix64 s.opa.toNat)) 0) := by
  rw [exec_fmix64, ← fmix64_toNat, BitVec.ofNat_toNat, BitVec.setWidth_eq]

/-- Settles O12: each step of fmix32 is that of the reference, which gives the two values. -/
theorem fmix32Result : Obligations.Fmix32Result := by
  unfold Obligations.Fmix32Result
  refine ⟨decode_encode (i := .fmix32) rfl, exec_fmix32_reference, fun s h => ?_, fun s h => ?_⟩
  · rw [exec_fmix32_reference, h, show BitVec.ofNat 64 (Reference.fmix32 0) = 0 by decide]
  · rw [exec_fmix32_reference, h, show BitVec.ofNat 64 (Reference.fmix32 1) = 0x514e28b7 by decide]

/-- Settles O13: each step of fmix64 is that of the reference, and each is injective. -/
theorem fmix64Result : Obligations.Fmix64Result := by
  unfold Obligations.Fmix64Result
  refine ⟨decode_encode (i := .fmix64) rfl, exec_fmix64_reference, fun s h => ?_, fun s h => ?_, fmix64_bijective⟩
  · rw [exec_fmix64, h, show fmix64 0 = 0 by decide]
  · rw [exec_fmix64, h, show fmix64 1 = 0xb456bcfc34c2cb2c by decide]

/-- Settles O14: each step of fmix32 is injective, and so is the zero-extension of its value into RES0. -/
theorem fmix32Bijective : Obligations.Fmix32Bijective := by
  unfold Obligations.Fmix32Bijective
  refine ⟨fmix32_bijective, fun s t hne => ⟨_, _, exec_fmix32 s, exec_fmix32 t, fun hres => hne ?_⟩⟩
  have hwide : (fmix32 (opa32 s)).setWidth 64 = (fmix32 (opa32 t)).setWidth 64 := hres
  have hfmix : fmix32 (opa32 s) = fmix32 (opa32 t) := by
    simpa using congrArg (BitVec.setWidth 32) hwide
  exact fmix32_bijective.injective hfmix

/-! ### What no command changes (R108) -/

section Effect

variable {s t : State}

/-- A command writes RES0, RES1, CODE_LEN, the byte store and STATUS, and no other field. -/
theorem CommandEffect.frame (h : CommandEffect s t) :
    ∃ r0 r1 n m st, t = { s with res0 := r0, res1 := r1, codeLen := n, mem := m, status := st } := by
  cases h with
  | code bs => exact ⟨_, _, _, _, _, by rw [writeBytes_eq]; rfl⟩
  | results | report => exact ⟨_, _, _, _, _, rfl⟩

/-- A command completes, with or without the error report. -/
theorem CommandEffect.status_cases (h : CommandEffect s t) :
    t.status = s.status.completed ∨ ∃ c, t.status = s.status.reported c := by
  cases h with
  | results => exact .inl rfl
  | code bs => exact .inl (by simp)
  | report c => exact .inr ⟨c, rfl⟩

/-- A command stores to CODEBUF only. -/
theorem CommandEffect.readByte_outside_codebuf (h : CommandEffect s t) {off : Nat}
    (hoff : off < 0x200 ∨ 0x240 ≤ off) : readByte t off = readByte s off := by
  cases h with
  | code bs hpos hlen =>
    refine readByte_writeBytes_outside s Buffer.codebuf.base off bs ?_
    simp only [Buffer.base]
    omega
  | results | report => rfl

end Effect

/-- Every command ends in a next state. -/
theorem exec_next (i : Instr) (s : State) : ∃ t, exec i s = .next t := by
  obtain ⟨_, _, -, h⟩ | ⟨_, -, -, -, h⟩ | ⟨_, h⟩ := exec_cases i s <;> exact ⟨_, h⟩

/-- Settles O31: the end of a command writes its results or its code, and completes or reports. -/
theorem commandsKeepOperandsAndControl : Obligations.CommandsKeepOperandsAndControl := by
  unfold Obligations.CommandsKeepOperandsAndControl
  intro i s
  obtain ⟨t, hexec⟩ := exec_next i s
  have heffect := exec_effect hexec
  have hstatus := heffect.status_cases
  have hbytes off (hoff : off < 0x200 ∨ 0x240 ≤ off) := heffect.readByte_outside_codebuf hoff
  obtain ⟨_, _, _, _, _, rfl⟩ := heffect.frame
  exact ⟨_, hexec, hstatus, rfl, rfl, rfl, rfl, rfl, rfl, rfl, rfl, rfl, rfl, rfl, rfl, rfl, hbytes⟩

end Sys2Proof.Machine
end

section
/-! PROOFS. The hash commands: their range check (spec/41_hash32.md R125), HASH32 against the reference over a list of
bytes (R120 to R124), and what the hashes of an empty and of a moved slice are (R124, R127; spec/42_hash128.md R140,
R149). -/

namespace Sys2Proof.Machine

/-! ### The range check (R125) -/

theorem sliceBase_eq (s : State) : sliceBase s = 0x10000 + s.offset.toNat := rfl

theorem sliceLen_eq (s : State) : sliceLen s = s.count.toNat := rfl

theorem sliceInRange_iff {s : State} : sliceInRange s = true ↔ s.offset.toNat + s.count.toNat ≤ s.nIn :=
  decide_eq_true_iff

section Range

variable {s : State}

theorem exec_hash32_of_inRange (h : s.offset.toNat + s.count.toNat ≤ s.nIn) :
    exec .hash32 s = .next (s.succeeded ((hash32 s (sliceBase s) (sliceLen s) s.seed).setWidth 64) 0) := by
  rw [exec, execHash32, if_pos (sliceInRange_iff.2 h), conclude_setResult]

theorem exec_hash32_of_outOfRange (h : s.offset.toNat + s.count.toNat > s.nIn) :
    exec .hash32 s = .next (s.failed .bufRange) := by
  rw [exec, execHash32, if_neg (mt sliceInRange_iff.1 (Nat.not_le.2 h)), conclude_failed]

/-- Both forms of the 128-bit hash, from one seed. -/
theorem conclude_hash128Into_of_inRange (h : s.offset.toNat + s.count.toNat ≤ s.nIn) (seed : DWord) :
    conclude s (hash128Into seed s) =
      .next
        (s.succeeded (hash128 s (sliceBase s) (sliceLen s) seed).1 (hash128 s (sliceBase s) (sliceLen s) seed).2) := by
  rw [hash128Into, if_pos (sliceInRange_iff.2 h), conclude_setResult]

theorem conclude_hash128Into_of_outOfRange (h : s.offset.toNat + s.count.toNat > s.nIn) (seed : DWord) :
    conclude s (hash128Into seed s) = .next (s.failed .bufRange) := by
  rw [hash128Into, if_neg (mt sliceInRange_iff.1 (Nat.not_le.2 h)), conclude_failed]

end Range

theorem exec_hash128 (s : State) : exec .hash128 s = conclude s (hash128Into 0 s) := by rw [exec, execHash128]

theorem exec_hash128s (s : State) : exec .hash128s s = conclude s (hash128Into (seed64 s) s) := by
  rw [exec, execHash128s]

/-- The range check decides how the 128-bit hash ends, whatever the seed. -/
theorem conclude_hash128Into_rangeCheck (s : State) (seed : DWord) :
    (s.offset.toNat + s.count.toNat > s.nIn → conclude s (hash128Into seed s) = .next (s.failed .bufRange))
      ∧ (s.offset.toNat + s.count.toNat ≤ s.nIn →
          ∃ r0 r1, conclude s (hash128Into seed s) = .next (s.succeeded r0 r1)) :=
  ⟨fun h => conclude_hash128Into_of_outOfRange h seed, fun h => ⟨_, _, conclude_hash128Into_of_inRange h seed⟩⟩

/-- Settles O18: the comparison of R125 decides in each of the three commands. -/
theorem hashRangeCheck : Obligations.HashRangeCheck := by
  unfold Obligations.HashRangeCheck
  rintro i s (rfl | rfl | rfl)
  · exact ⟨exec_hash32_of_outOfRange, fun h => ⟨_, _, exec_hash32_of_inRange h⟩⟩
  · rw [exec_hash128]
    exact conclude_hash128Into_rangeCheck s _
  · rw [exec_hash128s]
    exact conclude_hash128Into_rangeCheck s _

/-! ### A moved slice (R127, R149) -/

/-- The 128-bit hash from one seed of two slices with the same bytes. -/
theorem conclude_hash128Into_of_sameSlice {s t : State} (hs : s.offset.toNat + s.count.toNat ≤ s.nIn)
    (ht : t.offset.toNat + t.count.toNat ≤ t.nIn) (hlen : sliceLen s = sliceLen t)
    (hbytes : ∀ j, j < sliceLen s → readByte s (sliceBase s + j) = readByte t (sliceBase t + j)) (seed : DWord) :
    ∃ r0 r1, conclude s (hash128Into seed s) = .next (s.succeeded r0 r1)
      ∧ conclude t (hash128Into seed t) = .next (t.succeeded r0 r1) := by
  refine ⟨_, _, conclude_hash128Into_of_inRange hs seed, ?_⟩
  rw [conclude_hash128Into_of_inRange ht, hash128_congr hbytes, hlen]

/-- Settles O19: each hash reads the bytes of its slice and no others, so two slices that agree hash alike. -/
theorem hashDependsOnSliceOnly : Obligations.HashDependsOnSliceOnly := by
  unfold Obligations.HashDependsOnSliceOnly
  intro i s t hi hs ht hcount hseed hbytes
  have hlen : sliceLen s = sliceLen t := by rw [sliceLen_eq, sliceLen_eq, hcount]
  rw [← sliceLen_eq, ← sliceBase_eq, ← sliceBase_eq] at hbytes
  obtain rfl | rfl | rfl := hi
  · refine ⟨_, _, exec_hash32_of_inRange hs, ?_⟩
    rw [exec_hash32_of_inRange ht, hash32_congr hbytes, hlen, hseed (by decide)]
  · rw [exec_hash128, exec_hash128]
    exact conclude_hash128Into_of_sameSlice hs ht hlen hbytes 0
  · have hseed64 : seed64 t = seed64 s := by rw [seed64, ← hseed (by decide), seed64]
    rw [exec_hash128s, exec_hash128s, hseed64]
    exact conclude_hash128Into_of_sameSlice hs ht hlen hbytes _

/-! ### Bytes as numbers (R11) -/

theorem reference_value_eq_leNat (bs : List Byte) : Reference.value bs = leNat bs := by
  induction bs with
  | nil => rfl
  | cons b bs ih => rw [leNat, ← ih, Reference.value, List.foldr_cons, Reference.value]

/-- A byte and a multiple of 256 have no bit in common. -/
theorem mul_xor_byte_eq_add (v : Nat) (b : Byte) : 2 ^ 8 * v ^^^ b.toNat = b.toNat + 2 ^ 8 * v := by
  have hlt : b.toNat < 2 ^ 8 := b.isLt
  have hdiv : (2 ^ 8 * v ^^^ b.toNat) / 2 ^ 8 = v := by
    rw [Nat.xor_div_two_pow, Nat.div_eq_of_lt hlt, Nat.mul_div_cancel_left v (by decide), Nat.xor_zero]
  have hmod : (2 ^ 8 * v ^^^ b.toNat) % 2 ^ 8 = b.toNat := by
    rw [Nat.xor_mod_two_pow, Nat.mul_mod_right, Nat.mod_eq_of_lt hlt, Nat.zero_xor]
  omega

@[simp] theorem memRead_zero (w : Nat) (s : State) (off : Nat) : memRead w s off 0 = 0#w := rfl

/-- A little-endian word, from its lowest byte on. -/
theorem memRead_succ (w : Nat) (s : State) (off n : Nat) :
    memRead w s off (n + 1) = memRead w s (off + 1) n <<< 8 ^^^ (readByte s off).setWidth w := by
  have hshift (v : Nat) : BitVec.ofNat w (2 ^ 8 * v) = BitVec.ofNat w v <<< 8 :=
    BitVec.eq_of_toNat_eq (by simp [Nat.shiftLeft_eq, Nat.mul_comm])
  rw [memRead, memRead, readBytes, leNat, show 256 = 2 ^ 8 from rfl, ← mul_xor_byte_eq_add, BitVec.ofNat_xor, hshift,
    BitVec.ofNat_toNat]

/-- A read that fits the word, in natural numbers. -/
theorem memRead_toNat {w n : Nat} (hn : 8 * n ≤ w) (s : State) (off : Nat) :
    (memRead w s off n).toNat = Reference.value (readBytes s off n) := by
  have hlt : leNat (readBytes s off n) < 2 ^ (8 * n) := by
    simpa [pow_mul] using leNat_lt (readBytes s off n)
  rw [memRead, BitVec.toNat_ofNat, reference_value_eq_leNat,
    Nat.mod_eq_of_lt (hlt.trans_le (Nat.pow_le_pow_right (by decide) hn))]

/-- The switch of R123 puts the tail's bytes in little-endian order. -/
theorem tailWord32_eq_memRead (s : State) (t : Nat) {r : Nat} (hr : r < 4) : tailWord32 s t r = memRead 32 s t r := by
  interval_cases r
  · rfl
  · simp [tailWord32, memRead_succ]
  · simp [tailWord32, memRead_succ]
  · simp [tailWord32, memRead_succ, BitVec.shiftLeft_xor_distrib, ← BitVec.shiftLeft_add, Nat.add_assoc]

/-! ### The mixing steps in natural numbers (R121, R122) -/

/-- The two parts of a rotation have no bit in common. -/
theorem rotateLeft_toNat {w n : Nat} (v : BitVec w) (hn : n < w) :
    (v.rotateLeft n).toNat = Reference.rotl w v.toNat n := by
  have hlow : v.toNat / 2 ^ (w - n) < 2 ^ n := by
    rw [Nat.div_lt_iff_lt_mul (by positivity), ← pow_add, Nat.add_sub_cancel' hn.le]
    exact v.isLt
  have hhigh : v.toNat * 2 ^ n % 2 ^ w = v.toNat % 2 ^ (w - n) * 2 ^ n := by
    rw [← Nat.mul_mod_mul_right, ← pow_add, Nat.sub_add_cancel hn.le]
  rw [BitVec.toNat_rotateLeft, Nat.mod_eq_of_lt hn, Reference.rotl, Nat.shiftLeft_eq, Nat.shiftRight_eq_div_pow, hhigh,
    ← Nat.shiftLeft_eq, Nat.shiftLeft_add_eq_or_of_lt hlow]

theorem rotl32_toNat (v : Word) {n : Nat} (hn : n < 32) : (rotl32 v n).toNat = Reference.rotl 32 v.toNat n := by
  rw [rotl32_eq_rotateLeft v hn, rotateLeft_toNat v hn]

theorem mixk32_toNat (k : Word) : (mixk32 k).toNat = Reference.mix32 k.toNat := by
  simp only [mixk32, mul_ofNat_toNat, rotl32_toNat _ (show 15 < 32 by decide), Reference.mix32]

theorem round32_toNat (h k : Word) :
    (round32 h k).toNat = (Reference.rotl 32 (h.toNat ^^^ Reference.mix32 k.toNat) 13 * 5 + 0xe6546b64) % 2 ^ 32 := by
  have hconst : (0xe6546b64#32).toNat = 0xe6546b64 := by decide
  rw [round32, BitVec.toNat_add, mul_ofNat_toNat, rotl32_toNat _ (by decide), BitVec.toNat_xor, mixk32_toNat, hconst,
    Nat.mod_add_mod]

/-! ### Main loop, tail and finalization (R122 to R124) -/

/-! `consume32` case by case, read off its one unfolding equation: the equations Lean makes by case exceed the
recursion limit here. -/

/-- One block of the reference's main loop. -/
theorem consume32_block (h : Nat) (a b c d : Byte) (rest : List Byte) :
    Reference.consume32 h (a :: b :: c :: d :: rest) =
      Reference.consume32
        ((Reference.rotl 32 (h ^^^ Reference.mix32 (Reference.value [a, b, c, d])) 13 * 5 + 0xe6546b64) % 2 ^ 32)
        rest :=
  Reference.consume32.eq_def _ _

theorem consume32_nil (h : Nat) : Reference.consume32 h [] = h := Reference.consume32.eq_def _ _

theorem consume32_tail (h : Nat) {bs : List Byte} (hpos : 0 < bs.length) (hlt : bs.length < 4) :
    Reference.consume32 h bs = h ^^^ Reference.mix32 (Reference.value bs) := by
  rw [Reference.consume32.eq_def]
  split
  · simp only [List.length_cons] at hlt
    omega
  · exact absurd hpos (by decide)
  · rfl

theorem body32_succ (s : State) (base n : Nat) (seed : Word) :
    body32 s base (n + 1) seed = body32 s (base + 4) n (round32 seed (memRead 32 s base 4)) := by
  simp only [body32, List.range_succ_eq_map, List.foldl_cons, List.foldl_map]
  refine List.foldl_ext _ _ _ fun h i _ => ?_
  rw [show base + 4 * i.succ = base + 4 + 4 * i by omega]

/-- The tail consumes the last zero to three bytes. -/
theorem tail32_toNat (s : State) (t : Nat) {r : Nat} (hr : r < 4) (h : Word) :
    (tail32 s t r h).toNat = Reference.consume32 h.toNat (readBytes s t r) := by
  rw [tail32]
  split
  · next hpos =>
    rw [BitVec.toNat_xor, mixk32_toNat, tailWord32_eq_memRead s t hr, memRead_toNat (by omega),
      consume32_tail _ (by rwa [readBytes_length]) (by rwa [readBytes_length])]
  · next hpos =>
    obtain rfl : r = 0 := by omega
    rw [readBytes, consume32_nil]

/-- The reference consumes what the main loop and the tail do, block by block. -/
theorem tail32_body32_toNat (s : State) {r : Nat} (hr : r < 4) (n base : Nat) (seed : Word) :
    (tail32 s (base + 4 * n) r (body32 s base n seed)).toNat
      = Reference.consume32 seed.toNat (readBytes s base (4 * n + r)) := by
  induction n generalizing base seed with
  | zero => simpa [body32] using tail32_toNat s base hr seed
  | succ n ih =>
    have hblock := memRead_toNat (show 8 * 4 ≤ 32 by decide) s base
    rw [body32_succ, show base + 4 * (n + 1) = base + 4 + 4 * n by omega, ih, round32_toNat, hblock,
      show 4 * (n + 1) + r = 4 * n + r + 4 by omega]
    simp only [readBytes]
    rw [consume32_block]

/-- hash32 over fewer than 2^32 bytes, in natural numbers. -/
theorem hash32_toNat (s : State) (base : Nat) {n : Nat} (hn : n < 2 ^ 32) (seed : Word) :
    (hash32 s base n seed).toNat = Reference.hash32 (readBytes s base n) seed.toNat := by
  have hconsume := tail32_body32_toNat s (Nat.mod_lt n (by decide)) (n / 4) base seed
  rw [Nat.div_add_mod] at hconsume
  rw [hash32, fmix32_toNat, BitVec.toNat_xor, hconsume, BitVec.toNat_ofNat, Nat.mod_eq_of_lt hn, Reference.hash32,
    readBytes_length]

/-- HASH32 of a slice inside INBUF, in natural numbers. -/
theorem exec_hash32_reference {s : State} (h : s.offset.toNat + s.count.toNat ≤ s.nIn) :
    exec .hash32 s =
      .next
        (s.succeeded
          (BitVec.ofNat 64
            (Reference.hash32 (bytesFrom s (0x10000 + s.offset.toNat) s.count.toNat) s.seed.toNat))
          0) := by
  rw [exec_hash32_of_inRange h, sliceBase_eq, sliceLen_eq, ← BitVec.ofNat_toNat, hash32_toNat s _ s.count.isLt,
    readBytes_eq_bytesFrom]

/-- Settles O15: main loop, tail and finalization are those of the reference, and the comparison of R125 decides. -/
theorem hash32IsMurmur32 : Obligations.Hash32IsMurmur32 := by
  unfold Obligations.Hash32IsMurmur32
  exact ⟨decode_encode (i := .hash32) rfl, fun _ => exec_hash32_reference, fun _ => exec_hash32_of_outOfRange⟩

/-! ### The empty input -/

/-- Without blocks, tail or seed, finalization starts from zero and keeps it. -/
theorem hash128_empty (s : State) (base : Nat) : hash128 s base 0 0 = (0, 0) := by
  have hbody : body128 s base 0 0 = (0, 0) := rfl
  have htail : tail128 s base 0 (0, 0) = (0, 0) := rfl
  have hfinal : final128 0 (0, 0) = (0, 0) := by decide
  rw [hash128, Nat.zero_div, Nat.zero_mod, Nat.mul_zero, Nat.add_zero, hbody, htail, hfinal]

/-- Settles O20: only the finalization of R124 and R146 acts on the empty input. -/
theorem emptyInputHashes : Obligations.EmptyInputHashes := by
  unfold Obligations.EmptyInputHashes
  intro s hcount hoffset
  have hlen : s.count.toNat = 0 := by rw [hcount]; rfl
  have hrange : s.offset.toNat + s.count.toNat ≤ s.nIn := by omega
  constructor
  · rw [exec_hash32_reference hrange, hlen, bytesFrom, List.range_zero, List.map_nil, Reference.hash32, consume32_nil,
      List.length_nil, Nat.xor_zero]
  · rw [exec_hash128, conclude_hash128Into_of_inRange hrange, sliceLen_eq, hlen, hash128_empty]

end Sys2Proof.Machine
end

section
/-! PROOFS. HASH128 and HASH128S against the reference over a list of bytes (spec/42_hash128.md R140 to R151). -/

namespace Sys2Proof.Machine

/-! ### Blocks and tail as parts of the list of bytes (R142 to R144) -/

theorem readBytes_take (s : State) (off n m : Nat) : (readBytes s off n).take m = readBytes s off (min m n) :=
  List.ext_getElem (by simp) fun j _ _ => by simp [readBytes_getElem]

theorem readBytes_drop (s : State) (off n m : Nat) : (readBytes s off n).drop m = readBytes s (off + m) (n - m) :=
  List.ext_getElem (by simp) fun j _ _ => by simp [readBytes_getElem, Nat.add_assoc]

/-- A little-endian word, from its highest byte on. -/
theorem memRead_succ_high (w : Nat) (s : State) (off n : Nat) :
    memRead w s off (n + 1) = memRead w s off n ^^^ ((readByte s (off + n)).setWidth w <<< (8 * n)) := by
  induction n generalizing off with
  | zero => simp [memRead_succ]
  | succ n ih =>
    rw [memRead_succ, ih, memRead_succ w s off n, BitVec.shiftLeft_xor_distrib, ← BitVec.shiftLeft_add,
      show off + 1 + n = off + (n + 1) by omega, show 8 * n + 8 = 8 * (n + 1) by omega]
    ac_rfl

/-- A tail word of R144 is the little-endian word of the tail's bytes. -/
theorem tailWord64_eq_memRead (s : State) (t m : Nat) : tailWord64 s t m = memRead 64 s t m := by
  induction m with
  | zero => rfl
  | succ m ih => rw [tailWord64, ih, memRead_succ_high]

/-! ### The mixing steps in natural numbers (R142, R143) -/

theorem rotl64_toNat (v : DWord) {n : Nat} (hn : n < 64) : (rotl64 v n).toNat = Reference.rotl 64 v.toNat n := by
  rw [rotl64_eq_rotateLeft v hn, rotateLeft_toNat v hn]

theorem mixk1_toNat (k : DWord) : (mixk1 k).toNat = Reference.mixA k.toNat := by
  simp only [mixk1, mul_ofNat_toNat, rotl64_toNat _ (show 31 < 64 by decide), Reference.mixA]

theorem mixk2_toNat (k : DWord) : (mixk2 k).toNat = Reference.mixB k.toNat := by
  simp only [mixk2, mul_ofNat_toNat, rotl64_toNat _ (show 33 < 64 by decide), Reference.mixB]

/-- The step `x = x*5 + c` after an addition, as R142 and R143 end with it: one reduction suffices. -/
theorem add_mul_add_toNat (u v : DWord) (c : Nat) :
    ((u + v) * 5#64 + BitVec.ofNat 64 c).toNat = ((u.toNat + v.toNat) * 5 + c) % 2 ^ 64 := by
  rw [BitVec.toNat_add, mul_ofNat_toNat, BitVec.toNat_add, BitVec.toNat_ofNat, Nat.mod_mul_mod, ← Nat.add_mod]

theorem round128_fst_toNat (h : DWord × DWord) (k1 k2 : DWord) :
    (round128 h k1 k2).1.toNat = Reference.nextH1 h.1.toNat h.2.toNat k1.toNat := by
  rw [round128, add_mul_add_toNat, rotl64_toNat _ (by decide), BitVec.toNat_xor, mixk1_toNat, Reference.nextH1]

theorem round128_snd_toNat (h : DWord × DWord) (k1 k2 : DWord) :
    (round128 h k1 k2).2.toNat = Reference.nextH2 (round128 h k1 k2).1.toNat h.2.toNat k2.toNat := by
  rw [round128, add_mul_add_toNat, rotl64_toNat _ (by decide), BitVec.toNat_xor, mixk2_toNat, Reference.nextH2]

/-! ### The main loop from any pair (R142, R143) -/

/-- The loop of `body128`, which starts it from equal halves. -/
def mainLoop128 (s : State) (base blocks : Nat) (h : DWord × DWord) : DWord × DWord :=
  (List.range blocks).foldl
    (fun h i => round128 h (memRead 64 s (base + 16 * i) 8) (memRead 64 s (base + 16 * i + 8) 8)) h

theorem body128_eq_mainLoop128 (s : State) (base blocks : Nat) (seed : DWord) :
    body128 s base blocks seed = mainLoop128 s base blocks (seed, seed) := rfl

@[simp] theorem mainLoop128_zero (s : State) (base : Nat) (h : DWord × DWord) : mainLoop128 s base 0 h = h := rfl

theorem mainLoop128_succ (s : State) (base n : Nat) (h : DWord × DWord) :
    mainLoop128 s base (n + 1) h =
      mainLoop128 s (base + 16) n (round128 h (memRead 64 s base 8) (memRead 64 s (base + 8) 8)) := by
  simp only [mainLoop128, List.range_succ_eq_map, List.foldl_cons, List.foldl_map]
  refine List.foldl_ext _ _ _ fun h i _ => ?_
  rw [show base + 16 * i.succ = base + 16 + 16 * i by omega]

/-! ### Main loop and tail against the reference (R142 to R145) -/

/-- Both halves of the hash state in natural numbers. -/
abbrev toNats (h : DWord × DWord) : Nat × Nat := (h.1.toNat, h.2.toNat)

/-- One block of the reference's main loop, at the front of a slice. -/
theorem consume128_block (s : State) (off n fuel h1 h2 : Nat) :
    Reference.consume128 (fuel + 1) h1 h2 (readBytes s off (n + 16)) =
      Reference.consume128 fuel (Reference.nextH1 h1 h2 (Reference.value (readBytes s off 8)))
        (Reference.nextH2 (Reference.nextH1 h1 h2 (Reference.value (readBytes s off 8))) h2
          (Reference.value (readBytes s (off + 8) 8)))
        (readBytes s (off + 16) n) := by
  have hlen : 16 ≤ (readBytes s off (n + 16)).length := by simp
  have hlow : min 8 (n + 16) = 8 := by omega
  have hhigh : min 8 (n + 16 - 8) = 8 := by omega
  rw [Reference.consume128, if_pos hlen, readBytes_drop, readBytes_drop, readBytes_take, readBytes_take, hlow, hhigh,
    Nat.add_sub_cancel]

/-- The reference's tail passes, over a slice shorter than a block. -/
theorem consume128_tail (s : State) (off fuel h1 h2 : Nat) {r : Nat} (hr : r < 16) :
    Reference.consume128 (fuel + 1) h1 h2 (readBytes s off r) =
      (h1 ^^^ Reference.mixA (Reference.value (readBytes s off (min r 8))),
        h2 ^^^ Reference.mixB (Reference.value (readBytes s (off + 8) (r - 8)))) := by
  have hlen : ¬16 ≤ (readBytes s off r).length := by simpa using hr
  rw [Reference.consume128, if_neg hlen, readBytes_take, readBytes_drop, Nat.min_comm]

/-- A test may be left out before an exclusive or with a value that is zero where the test fails. -/
theorem ite_xor_eq_xor {p : Prop} [Decidable p] (h k : DWord) (hk : ¬p → k = 0#64) :
    (if p then h ^^^ k else h) = h ^^^ k := by
  split
  · rfl
  · next hp => rw [hk hp, BitVec.xor_zero]

/-- The tail passes need no test for an absent word: they leave zero zero. -/
theorem tail128_eq (s : State) (t r : Nat) (h : DWord × DWord) :
    tail128 s t r h =
      (h.1 ^^^ mixk1 (memRead 64 s t (min r 8)), h.2 ^^^ mixk2 (memRead 64 s (t + 8) (r - 8))) := by
  have hk1 (hr : ¬r > 0) : mixk1 (memRead 64 s t (min r 8)) = 0#64 := by
    rw [show min r 8 = 0 by omega, memRead_zero]
    decide
  have hk2 (hr : ¬r > 8) : mixk2 (memRead 64 s (t + 8) (r - 8)) = 0#64 := by
    rw [show r - 8 = 0 by omega, memRead_zero]
    decide
  rw [tail128, tailWord64_eq_memRead, tailWord64_eq_memRead, ite_xor_eq_xor _ _ hk1, ite_xor_eq_xor _ _ hk2]

/-- The tail consumes the last zero to fifteen bytes. -/
theorem tail128_toNats (s : State) (t fuel : Nat) {r : Nat} (hr : r < 16) (h : DWord × DWord) :
    toNats (tail128 s t r h) = Reference.consume128 (fuel + 1) h.1.toNat h.2.toNat (readBytes s t r) := by
  rw [consume128_tail s t fuel _ _ hr, tail128_eq, toNats, BitVec.toNat_xor, BitVec.toNat_xor, mixk1_toNat,
    mixk2_toNat, memRead_toNat (by omega), memRead_toNat (by omega)]

/-- The reference consumes what the main loop and the tail do, block by block. -/
theorem tail128_mainLoop128_toNats (s : State) {r : Nat} (hr : r < 16) (n base : Nat) (h : DWord × DWord) :
    toNats (tail128 s (base + 16 * n) r (mainLoop128 s base n h)) =
      Reference.consume128 (n + 1) h.1.toNat h.2.toNat (readBytes s base (16 * n + r)) := by
  induction n generalizing base h with
  | zero => simpa using tail128_toNats s base 0 hr h
  | succ n ih =>
    have hk off := memRead_toNat (show 8 * 8 ≤ 64 by decide) s off
    rw [mainLoop128_succ, show base + 16 * (n + 1) = base + 16 + 16 * n by omega, ih, round128_snd_toNat,
      round128_fst_toNat, hk, hk, show 16 * (n + 1) + r = 16 * n + r + 16 by omega, consume128_block]

/-! ### Finalization and the two commands (R140, R146, R150, R151) -/

/-- hash128 over fewer than 2^64 bytes, in natural numbers. -/
theorem hash128_toNats (s : State) (base : Nat) {n : Nat} (hn : n < 2 ^ 64) (seed : DWord) :
    toNats (hash128 s base n seed) = Reference.hash128 (readBytes s base n) seed.toNat := by
  have hconsume := tail128_mainLoop128_toNats s (Nat.mod_lt n (by decide)) (n / 16) base (seed, seed)
  have hlen : (BitVec.ofNat 64 n).toNat = n := by rw [BitVec.toNat_ofNat, Nat.mod_eq_of_lt hn]
  -- The library's lemma holds by `rfl`, and the kernel exceeds its recursion limit on such a step of `simp`.
  have hadd (u v : DWord) : (u + v).toNat = (u.toNat + v.toNat) % 2 ^ 64 := BitVec.toNat_add u v
  rw [Nat.div_add_mod, ← body128_eq_mainLoop128] at hconsume
  simp only [hash128, final128, Reference.hash128, readBytes_length, ← hconsume, toNats, fmix64_toNat, hadd,
    BitVec.toNat_xor, hlen]

/-- Either form on a slice inside INBUF, in natural numbers. -/
theorem conclude_hash128Into_reference {s : State} (h : s.offset.toNat + s.count.toNat ≤ s.nIn) (seed : DWord) :
    conclude s (hash128Into seed s) =
      .next
        (let h := Reference.hash128 (bytesFrom s (0x10000 + s.offset.toNat) s.count.toNat) seed.toNat
         s.succeeded (BitVec.ofNat 64 h.1) (BitVec.ofNat 64 h.2)) := by
  have hcount : s.count.toNat < 2 ^ 64 := s.count.isLt.trans (by decide)
  rw [conclude_hash128Into_of_inRange h, sliceBase_eq, sliceLen_eq, ← readBytes_eq_bytesFrom,
    ← hash128_toNats s _ hcount]
  simp only [BitVec.ofNat_toNat, BitVec.setWidth_eq]

/-- Settles O16: main loop, tail and finalization from zero are those of the reference, and the comparison of R125
decides. -/
theorem hash128IsMurmur128 : Obligations.Hash128IsMurmur128 := by
  unfold Obligations.Hash128IsMurmur128
  refine ⟨decode_encode (i := .hash128) rfl, fun s h => ?_, fun s h => ?_⟩
  · have hzero : (0 : DWord).toNat = 0 := rfl
    rw [exec_hash128, conclude_hash128Into_reference h, hzero]
  · rw [exec_hash128, conclude_hash128Into_of_outOfRange h]

theorem seed64_toNat (s : State) : (seed64 s).toNat = s.seed.toNat :=
  BitVec.toNat_setWidth_of_le (by decide)

/-- Settles O17: the same from the zero-extended SEED, which is HASH128's zero where SEED is. -/
theorem hash128sIsSeededMurmur128 : Obligations.Hash128sIsSeededMurmur128 := by
  unfold Obligations.Hash128sIsSeededMurmur128
  refine ⟨decode_encode (i := .hash128s) rfl, fun s h => ?_, fun s h => ?_, fun s hseed => ?_⟩
  · rw [exec_hash128s, conclude_hash128Into_reference h, seed64_toNat]
  · rw [exec_hash128s, conclude_hash128Into_of_outOfRange h]
  · have hzero : seed64 s = 0 := by rw [seed64, hseed]; rfl
    rw [exec_hash128s, exec_hash128, hzero]

end Sys2Proof.Machine
end

section
/-! PROOFS. The alphabet check of both short-code commands, and ENCODE: its errors, its code and the length of that
code (spec/43_short_code.md R170 to R178). -/

namespace Sys2Proof.Machine

/-! ### The alphabet and its check (R172) -/

theorem radix_eq (s : State) : radix s = s.alen.toNat := rfl

@[simp] theorem alphabet_length (s : State) : (alphabet s).length = s.alen.toNat := by
  rw [alphabet, readBytes_length, radix]

theorem alphabet_getElem (s : State) {d : Nat} (hd : d < (alphabet s).length) :
    (alphabet s)[d] = readByte s (0x100 + d) :=
  readBytes_getElem s _ _ d hd

theorem mem_alphabet_iff {s : State} {c : Byte} :
    c ∈ alphabet s ↔ ∃ d < s.alen.toNat, readByte s (0x100 + d) = c := by
  simp [List.mem_iff_getElem, alphabet_getElem]

theorem alphabet_congr {s t : State} (halen : t.alen = s.alen)
    (h : ∀ j, j < s.alen.toNat → readByte t (0x100 + j) = readByte s (0x100 + j)) : alphabet t = alphabet s := by
  rw [alphabet, radix, halen]
  exact readBytes_congr h

theorem alphabetFault_of_length {s : State} (h : s.alen.toNat = 0 ∨ 256 < s.alen.toNat) :
    alphabetFault s = some .alphaLen := by
  rw [← radix_eq] at h
  rw [alphabetFault, if_pos h]

theorem alphabetFault_of_repeated {s : State} (hpos : 1 ≤ s.alen.toNat) (hle : s.alen.toNat ≤ 256)
    (hrep : ∃ i j, i < j ∧ j < s.alen.toNat ∧ readByte s (0x100 + i) = readByte s (0x100 + j)) :
    alphabetFault s = some .alphaDup := by
  have hnodup : ¬(alphabet s).Nodup := fun hnodup => by
    obtain ⟨-, -, hne⟩ := (validAlphabet_iff s).2 ⟨hpos, hle, hnodup⟩
    obtain ⟨i, j, hij, hj, heq⟩ := hrep
    exact hne i j hij hj heq
  have hlen : ¬(radix s = 0 ∨ radix s > 256) := by
    rw [radix_eq]
    omega
  rw [alphabetFault, if_neg hlen, if_pos ((Bool.not_eq_false _).mp (mt hasDuplicate_eq_false.1 hnodup))]

/-- The check depends on ALEN and the symbols in use only. -/
theorem ValidAlphabet.congr {s t : State} (hvalid : ValidAlphabet s) (halen : t.alen = s.alen)
    (h : ∀ j, j < s.alen.toNat → readByte t (0x100 + j) = readByte s (0x100 + j)) : ValidAlphabet t := by
  rw [validAlphabet_iff, halen, alphabet_congr halen h]
  exact (validAlphabet_iff s).1 hvalid

theorem ValidAlphabet.one_le {s : State} (hvalid : ValidAlphabet s) : 1 ≤ s.alen.toNat := by
  obtain ⟨hpos, -, -⟩ := hvalid
  exact hpos

/-- Different places of a valid alphabet hold different symbols. -/
theorem ValidAlphabet.symbol_ne {s : State} (hvalid : ValidAlphabet s) {d : Nat} (hd : d < s.alen.toNat)
    (h0 : d ≠ 0) : readByte s (0x100 + d) ≠ readByte s 0x100 := by
  obtain ⟨-, -, hne⟩ := hvalid
  exact (hne 0 d (Nat.pos_of_ne_zero h0) hd).symm

/-! ### How ENCODE ends (R170, R174, R176) -/

theorem exec_encode_of_alphabetFault {s : State} {c : Cause} (h : alphabetFault s = some c) :
    exec .encode s = .next (s.failed c) := by
  simp only [exec, execEncode, encodeInto, h, conclude_failed]

theorem exec_encode_of_radixOne {s : State} (hone : s.alen.toNat = 1) (hne : s.opa ≠ 0) :
    exec .encode s = .next (s.failed .radix1) := by
  have hvalid : ValidAlphabet s := ⟨by omega, by omega, fun i j hij hj => by omega⟩
  simp only [exec, execEncode, encodeInto, alphabetFault_eq_none hvalid]
  rw [if_pos ⟨hone, hne⟩, conclude_failed]

/-- Settles O22: the alphabet check comes first, and the one-symbol alphabet is valid. -/
theorem encodeErrors : Obligations.EncodeErrors := by
  unfold Obligations.EncodeErrors
  exact fun s =>
    ⟨fun hlen => exec_encode_of_alphabetFault (alphabetFault_of_length hlen),
      fun hpos hle hrep => exec_encode_of_alphabetFault (alphabetFault_of_repeated hpos hle hrep),
      exec_encode_of_radixOne⟩

/-- The digits of OPA in the radix, most significant first (R171). -/
def opaDigits (s : State) : List Nat := codeDigits (radix s) s.opa.toNat

/-- The block after an ENCODE that raised nothing: the digits' symbols in CODEBUF, their number in CODE_LEN (R176). -/
def encoded (s : State) : State :=
  complete
    (setCodeLen (BitVec.ofNat 7 (opaDigits s).length)
      (writeBytes s Buffer.codebuf.base ((opaDigits s).map (alphaSym s))))

theorem exec_encode_of_valid {s : State} (hvalid : ValidAlphabet s) (hradix : s.alen.toNat = 1 → s.opa = 0) :
    exec .encode s = .next (encoded s) := by
  have hok : ¬(radix s = 1 ∧ s.opa ≠ 0) := fun ⟨hone, hne⟩ => hne (hradix hone)
  simp only [exec, execEncode, encodeInto, alphabetFault_eq_none hvalid]
  rw [if_neg hok, conclude_ok, encodeCode, List.length_map]
  rfl

theorem exec_encode_of_two_le {s : State} (hvalid : ValidAlphabet s) (htwo : 2 ≤ s.alen.toNat) :
    exec .encode s = .next (encoded s) :=
  exec_encode_of_valid hvalid fun hone => by omega

/-! ### The digits of OPA (R171, R173, R178) -/

section Digits

variable {s : State}

theorem opaDigits_length_bounds (s : State) : 1 ≤ (opaDigits s).length ∧ (opaDigits s).length ≤ 64 :=
  (codeDigits_length _ _).symm

theorem opaDigits_of_zero (h : s.opa = 0) : opaDigits s = [0] := by
  rw [opaDigits, h]
  rfl

theorem opa_toNat_ne_zero (h : s.opa ≠ 0) : s.opa.toNat ≠ 0 := fun h0 => h (BitVec.eq_of_toNat_eq h0)

/-- 64 divisions are enough in every radix from 2 on. -/
theorem opaDigits_of_ne_zero (htwo : 2 ≤ s.alen.toNat) (h : s.opa ≠ 0) :
    opaDigits s = (Nat.digits s.alen.toNat s.opa.toNat).reverse := by
  have hfuel : s.opa.toNat < s.alen.toNat ^ Config.codeMax := s.opa.isLt.trans_le (Nat.pow_le_pow_left htwo 64)
  rw [opaDigits, radix_eq, codeDigits, if_neg (opa_toNat_ne_zero h), digits_eq_natDigits htwo _ _ hfuel]

/-- A radix in which ENCODE gives a nonzero value a code is at least 2. -/
theorem ValidAlphabet.two_le (hvalid : ValidAlphabet s) (hradix : s.alen.toNat = 1 → s.opa = 0) (h : s.opa ≠ 0) :
    2 ≤ s.alen.toNat := by
  have hpos := hvalid.one_le
  have hone : s.alen.toNat ≠ 1 := mt hradix h
  omega

theorem opaDigits_lt (hvalid : ValidAlphabet s) (hradix : s.alen.toNat = 1 → s.opa = 0) {d : Nat}
    (hd : d ∈ opaDigits s) : d < s.alen.toNat := by
  by_cases h : s.opa = 0
  · rw [opaDigits_of_zero h, List.mem_singleton] at hd
    exact hd ▸ hvalid.one_le
  · have htwo := hvalid.two_le hradix h
    rw [opaDigits_of_ne_zero htwo h, List.mem_reverse] at hd
    exact Nat.digits_lt_base htwo hd

/-- The leading digit of a nonzero value is not zero (R177). -/
theorem opaDigits_head_ne_zero (htwo : 2 ≤ s.alen.toNat) (h : s.opa ≠ 0) (hpos : 0 < (opaDigits s).length) :
    (opaDigits s)[0] ≠ 0 := by
  have hlast := Nat.getLast_digit_ne_zero s.alen.toNat (opa_toNat_ne_zero h)
  rw [List.getLast_eq_getElem] at hlast
  simpa only [opaDigits_of_ne_zero htwo h, List.getElem_reverse, Nat.sub_zero] using hlast

theorem opaDigits_length (htwo : 2 ≤ s.alen.toNat) :
    (opaDigits s).length = if s.opa = 0 then 1 else Nat.log s.alen.toNat s.opa.toNat + 1 := by
  split
  · next h => rw [opaDigits_of_zero h, List.length_singleton]
  · next h => rw [opaDigits_of_ne_zero htwo h, List.length_reverse, Nat.length_digits _ _ htwo (opa_toNat_ne_zero h)]

/-- Only radix 2 has codes of 64 symbols, since 3^63 is no u64. -/
theorem radixTwo_of_opaDigits_length (htwo : 2 ≤ s.alen.toNat) (hlen : (opaDigits s).length = 64) :
    s.alen.toNat = 2 ∧ 2 ^ 63 ≤ s.opa.toNat := by
  rw [opaDigits_length htwo] at hlen
  split at hlen
  · omega
  · next h =>
    have hpow : s.alen.toNat ^ 63 ≤ s.opa.toNat := by
      simpa only [Nat.succ.inj hlen] using Nat.pow_log_le_self s.alen.toNat (opa_toNat_ne_zero h)
    have hthree : ¬3 ≤ s.alen.toNat := fun hthree => by
      have hlarge := Nat.pow_le_pow_left hthree 63
      have hopa := s.opa.isLt
      omega
    have heq : s.alen.toNat = 2 := by omega
    exact ⟨heq, heq ▸ hpow⟩

end Digits

/-! ### The block that ENCODE leaves (R176) -/

theorem encoded_eq (s : State) :
    encoded s =
      { s with
        mem := (encoded s).mem, codeLen := BitVec.ofNat 7 (opaDigits s).length,
        status := { s.status with busy := false, done := true } } := by
  rw [encoded, writeBytes_eq]
  rfl

theorem encoded_codeLen_toNat (s : State) : (encoded s).codeLen.toNat = (opaDigits s).length := by
  have hle := (opaDigits_length_bounds s).2
  rw [encoded_eq]
  exact Nat.mod_eq_of_lt (by omega)

theorem readByte_encoded_code (s : State) {j : Nat} (hj : j < (opaDigits s).length) :
    readByte (encoded s) (0x200 + j) = readByte s (0x100 + (opaDigits s)[j]) := by
  have hinside := readByte_writeBytes_inside s 0x200 j ((opaDigits s).map (alphaSym s)) (by simpa using hj)
  rw [List.getElem_map] at hinside
  exact hinside

theorem readByte_encoded_outside (s : State) {off : Nat} (hoff : off < 0x200 ∨ 0x200 + (opaDigits s).length ≤ off) :
    readByte (encoded s) off = readByte s off :=
  readByte_writeBytes_outside s 0x200 off ((opaDigits s).map (alphaSym s)) (by rwa [List.length_map])

/-- Settles O21: the code is the digits' symbols, and nothing else is stored. -/
theorem encodeResult : Obligations.EncodeResult := by
  unfold Obligations.EncodeResult
  intro s hvalid hradix
  obtain ⟨hpos, hle⟩ := opaDigits_length_bounds s
  refine ⟨opaDigits s, encoded s, ?_, hpos, hle, exec_encode_of_valid hvalid hradix, encoded_eq s,
    fun j hj => ⟨opaDigits_lt hvalid hradix (List.getElem_mem hj), readByte_encoded_code s hj⟩,
    fun off => readByte_encoded_outside s⟩
  split
  · next h => exact opaDigits_of_zero h
  · next h => exact opaDigits_of_ne_zero (hvalid.two_le hradix h) h

/-- Settles O23: the leading digit is not zero, and only A[0] stands at place 0. -/
theorem encodeCanonical : Obligations.EncodeCanonical := by
  unfold Obligations.EncodeCanonical
  intro s hvalid htwo hne
  have hpos : 0 < (opaDigits s).length := (opaDigits_length_bounds s).1
  have hlt := opaDigits_lt hvalid (fun hone => by omega) (List.getElem_mem hpos)
  refine ⟨encoded s, exec_encode_of_two_le hvalid htwo, ?_⟩
  rw [readByte_encoded_code s hpos]
  exact hvalid.symbol_ne hlt (opaDigits_head_ne_zero htwo hne hpos)

/-- Settles O24: the code is as long as OPA's digits. -/
theorem encodeLength : Obligations.EncodeLength := by
  unfold Obligations.EncodeLength
  intro s hvalid htwo
  refine ⟨encoded s, exec_encode_of_two_le hvalid htwo, ?_⟩
  rw [encoded_codeLen_toNat]
  exact ⟨opaDigits_length htwo, (opaDigits_length_bounds s).2, radixTwo_of_opaDigits_length htwo⟩

end Sys2Proof.Machine
end

section
/-! PROOFS. DECODE: its errors, its value, and how it reads ENCODE's code and a code with A[0] in front
(spec/43_short_code.md R180 to R184). -/

namespace Sys2Proof.Machine

/-! ### The loop of R180 -/

/-- The value of the digits `ds`, most significant first, after the value `v` so far (R180). -/
def valueFrom (n v : Nat) (ds : List Nat) : Nat := ds.foldl (fun v d => v * n + d) v

theorem positional_eq_valueFrom (n : Nat) (ds : List Nat) : positional n ds = valueFrom n 0 ds := rfl

@[simp] theorem valueFrom_nil (n v : Nat) : valueFrom n v [] = v := rfl

@[simp] theorem valueFrom_cons (n v d : Nat) (ds : List Nat) :
    valueFrom n v (d :: ds) = valueFrom n (v * n + d) ds := rfl

/-- The value never falls, so the whole fits only if every part does. -/
theorem le_valueFrom {n : Nat} (hn : 1 ≤ n) (v : Nat) (ds : List Nat) : v ≤ valueFrom n v ds := by
  induction ds generalizing v with
  | nil => exact le_rfl
  | cons d ds ih =>
    calc
      v ≤ v * n + d := (Nat.le_mul_of_pos_right v hn).trans (Nat.le_add_right _ d)
      _ ≤ valueFrom n v (d :: ds) := ih _

/-- `ds` are the places in the alphabet of the symbols `cs`, as the lookup of R182 finds them. -/
abbrev FoundAt (alpha : List Byte) : List Nat → List Byte → Prop :=
  List.Forall₂ fun d c => indexOf c alpha = some d

/-- Over symbols of the alphabet whose value fits, the loop runs to that value. -/
theorem decodeSymbols_append {alpha : List Byte} {n : Nat} (hn : 1 ≤ n) {ds : List Nat} {cs : List Byte}
    (h : FoundAt alpha ds cs) (rest : List Byte) {v : Nat} (hfits : valueFrom n v ds ≤ 2 ^ 64 - 1) :
    decodeSymbols alpha n v (cs ++ rest) = decodeSymbols alpha n (valueFrom n v ds) rest := by
  induction h generalizing v with
  | nil => rfl
  | @cons d c ds cs hd _ ih =>
    have hle : v * n + d ≤ 2 ^ 64 - 1 := (le_valueFrom hn _ ds).trans hfits
    rw [List.cons_append, decodeSymbols, hd]
    simp only [if_neg (Nat.not_lt.2 hle)]
    exact ih hfits

theorem decodeSymbols_of_foundAt {alpha : List Byte} {n : Nat} (hn : 1 ≤ n) {ds : List Nat} {cs : List Byte}
    (h : FoundAt alpha ds cs) (hfits : positional n ds ≤ 2 ^ 64 - 1) :
    decodeSymbols alpha n 0 cs = .ok (positional n ds) := by
  have hrun := decodeSymbols_append hn h [] (v := 0) hfits
  rwa [List.append_nil] at hrun

theorem decodeSymbols_of_unknown {alpha : List Byte} {c : Byte} (h : indexOf c alpha = none) (n v : Nat)
    (cs : List Byte) : decodeSymbols alpha n v (c :: cs) = .error .codeSym := by
  rw [decodeSymbols, h]

theorem decodeSymbols_of_overflow {alpha : List Byte} {c : Byte} {d n v : Nat} (h : indexOf c alpha = some d)
    (hover : v * n + d > 2 ^ 64 - 1) (cs : List Byte) : decodeSymbols alpha n v (c :: cs) = .error .decodeOvf := by
  rw [decodeSymbols, h]
  exact if_pos hover

/-! ### Lookup in the block's alphabet (R182) -/

theorem indexOf_alphabet {s : State} (hvalid : ValidAlphabet s) {d : Nat} (hd : d < s.alen.toNat) :
    indexOf (readByte s (0x100 + d)) (alphabet s) = some d := by
  obtain ⟨-, -, hnodup⟩ := (validAlphabet_iff s).1 hvalid
  have hd : d < (alphabet s).length := by rwa [alphabet_length]
  rw [← alphabet_getElem s hd]
  exact indexOf_eq_some hnodup hd

theorem indexOf_alphabet_eq_none {s : State} {c : Byte} (h : ∀ d, d < s.alen.toNat → readByte s (0x100 + d) ≠ c) :
    indexOf c (alphabet s) = none := by
  rw [indexOf_eq_none, mem_alphabet_iff]
  rintro ⟨d, hd, hc⟩
  exact h d hd hc

/-- The lookup finds the places of the code's first symbols. -/
theorem PlacesOf.foundAt {s : State} {ds : List Nat} (h : PlacesOf s ds) (hvalid : ValidAlphabet s) :
    FoundAt (alphabet s) ds (readBytes s 0x200 ds.length) := by
  refine List.forall₂_iff_get.2 ⟨(readBytes_length _ _ _).symm, fun j hj hj' => ?_⟩
  obtain ⟨hlt, hsym⟩ := h j hj
  rw [List.get_eq_getElem, List.get_eq_getElem, readBytes_getElem, ← hsym]
  exact indexOf_alphabet hvalid hlt

/-! ### How DECODE ends (R180) -/

/-- The ending of DECODE after its loop: the value, or the cause the loop raised. -/
def decodeEnd (s : State) : Except Cause Nat → Result
  | .ok v => .next (s.succeeded (BitVec.ofNat 64 v) 0)
  | .error c => .next (s.failed c)

@[simp] theorem decodeEnd_ok (s : State) (v : Nat) :
    decodeEnd s (.ok v) = .next (s.succeeded (BitVec.ofNat 64 v) 0) := rfl

@[simp] theorem decodeEnd_error (s : State) (c : Cause) : decodeEnd s (.error c) = .next (s.failed c) := rfl

theorem exec_decode_of_alphabetFault {s : State} {c : Cause} (h : alphabetFault s = some c) :
    exec .decode s = .next (s.failed c) := by
  simp only [exec, execDecode, decodeInto, h, conclude_failed]

theorem exec_decode_of_codeLen {s : State} (hvalid : ValidAlphabet s)
    (hlen : s.codeLen.toNat = 0 ∨ 64 < s.codeLen.toNat) : exec .decode s = .next (s.failed .codeLen) := by
  rw [← codeLength] at hlen
  simp only [exec, execDecode, decodeInto, alphabetFault_eq_none hvalid]
  rw [if_pos hlen, conclude_failed]

/-- Past the checks of the alphabet and of the code's length, DECODE ends as its loop does. -/
theorem exec_decode_of_valid {s : State} (hvalid : ValidAlphabet s) (hpos : 1 ≤ s.codeLen.toNat)
    (hle : s.codeLen.toNat ≤ 64) :
    exec .decode s = decodeEnd s (decodeSymbols (alphabet s) s.alen.toNat 0 (shortCode s)) := by
  have hlen : ¬(codeLength s = 0 ∨ codeLength s > 64) := by
    rw [codeLength]
    omega
  simp only [exec, execDecode, decodeInto, alphabetFault_eq_none hvalid]
  rw [if_neg hlen, radix_eq]
  cases decodeSymbols (alphabet s) s.alen.toNat 0 (shortCode s) with
  | error c => exact conclude_failed s c
  | ok v => exact conclude_setResult s _ 0

/-- DECODE of a code whose symbols stand in the alphabet, with a value that fits. -/
theorem exec_decode_of_placesOf {s : State} {ds : List Nat} (hvalid : ValidAlphabet s)
    (hlen : ds.length = s.codeLen.toNat) (hpos : 1 ≤ s.codeLen.toNat) (hle : s.codeLen.toNat ≤ 64)
    (hplaces : PlacesOf s ds) (hfits : positional s.alen.toNat ds ≤ 2 ^ 64 - 1) :
    exec .decode s = .next (s.succeeded (BitVec.ofNat 64 (positional s.alen.toNat ds)) 0) := by
  have hfound : FoundAt (alphabet s) ds (shortCode s) := by
    have hfirst := hplaces.foundAt hvalid
    rwa [hlen] at hfirst
  rw [exec_decode_of_valid hvalid hpos hle, decodeSymbols_of_foundAt hvalid.one_le hfound hfits, decodeEnd_ok]

/-- Settles O25: the loop runs over the whole code. -/
theorem decodeResult : Obligations.DecodeResult := by
  unfold Obligations.DecodeResult
  exact fun s ds => exec_decode_of_placesOf

/-! ### The errors inside the loop (R180, R205) -/

/-- The code, cut at a position: the symbols before it, the one at it, and the rest. -/
theorem shortCode_eq_append {s : State} {k : Nat} (hk : k < s.codeLen.toNat) :
    shortCode s = readBytes s 0x200 k ++ readByte s (0x200 + k) :: (shortCode s).drop (k + 1) := by
  have hlt : k < (shortCode s).length := by rwa [shortCode, readBytes_length]
  have htake : (shortCode s).take k = readBytes s 0x200 k := by
    rw [shortCode, readBytes_take, codeLength, Nat.min_eq_left hk.le]
    rfl
  have hat : (shortCode s)[k] = readByte s (0x200 + k) := readBytes_getElem s _ _ k hlt
  rw [← htake, ← hat, ← List.drop_eq_getElem_cons hlt, List.take_append_drop]

/-- Where the symbols before a position stand in the alphabet with a value that fits, the loop reaches that
position. -/
theorem exec_decode_at {s : State} {ds : List Nat} (hvalid : ValidAlphabet s) (hle : s.codeLen.toNat ≤ 64)
    (hlt : ds.length < s.codeLen.toNat) (hplaces : PlacesOf s ds) (hfits : positional s.alen.toNat ds ≤ 2 ^ 64 - 1) :
    exec .decode s =
      decodeEnd s
        (decodeSymbols (alphabet s) s.alen.toNat (positional s.alen.toNat ds)
          (readByte s (0x200 + ds.length) :: (shortCode s).drop (ds.length + 1))) := by
  rw [exec_decode_of_valid hvalid (by omega) hle, positional_eq_valueFrom,
    ← decodeSymbols_append hvalid.one_le (hplaces.foundAt hvalid) _ hfits, ← shortCode_eq_append hlt]

theorem positional_append_singleton (n : Nat) (ds : List Nat) (d : Nat) :
    positional n (ds ++ [d]) = positional n ds * n + d := by
  simp only [positional, List.foldl_append, List.foldl_cons, List.foldl_nil]

/-- Settles O26: the checks come in the order of R205, and the loop raises at the first position that offends. -/
theorem decodeErrors : Obligations.DecodeErrors := by
  unfold Obligations.DecodeErrors
  refine fun s =>
    ⟨fun hlen => exec_decode_of_alphabetFault (alphabetFault_of_length hlen),
      fun hpos hle hrep => exec_decode_of_alphabetFault (alphabetFault_of_repeated hpos hle hrep),
      exec_decode_of_codeLen, fun ds hvalid hle hlt hplaces hfits => ?_⟩
  rw [exec_decode_at hvalid hle hlt hplaces hfits]
  constructor
  · intro hunknown
    rw [decodeSymbols_of_unknown (indexOf_alphabet_eq_none hunknown), decodeEnd_error]
  · intro d hd hsym hover
    have hfound : indexOf (readByte s (0x200 + ds.length)) (alphabet s) = some d := hsym ▸ indexOf_alphabet hvalid hd
    rw [positional_append_singleton] at hover
    rw [decodeSymbols_of_overflow hfound hover, decodeEnd_error]

/-! ### DECODE after ENCODE (R183) -/

/-- The positional value of digits in reverse is what they stand for. -/
theorem positional_reverse (n : Nat) (ds : List Nat) : positional n ds.reverse = Nat.ofDigits n ds := by
  rw [positional, List.foldl_reverse, Nat.ofDigits_eq_foldr]
  simp only [Nat.cast_id, Nat.mul_comm, Nat.add_comm]

theorem positional_opaDigits {s : State} (htwo : 2 ≤ s.alen.toNat) :
    positional s.alen.toNat (opaDigits s) = s.opa.toNat := by
  by_cases h : s.opa = 0
  · rw [opaDigits_of_zero h, h, positional_eq_valueFrom, valueFrom_cons, Nat.zero_mul]
    rfl
  · rw [opaDigits_of_ne_zero htwo h, positional_reverse, Nat.ofDigits_digits]

/-- Settles O27: ENCODE's digits are the places of its code, and their positional value is OPA. -/
theorem encodeThenDecodeRoundTrip : Obligations.EncodeThenDecodeRoundTrip := by
  unfold Obligations.EncodeThenDecodeRoundTrip
  intro s hvalid htwo
  refine ⟨encoded s, exec_encode_of_two_le hvalid htwo, fun u halen hcodeLen halpha hcode => ?_⟩
  obtain ⟨hpos, hle⟩ := opaDigits_length_bounds s
  have hlen : u.codeLen.toNat = (opaDigits s).length := by rw [hcodeLen, encoded_codeLen_toNat]
  have hvalue : positional u.alen.toNat (opaDigits s) = s.opa.toNat := halen ▸ positional_opaDigits htwo
  have hplaces : PlacesOf u (opaDigits s) := fun j hj => by
    have hd := opaDigits_lt hvalid (fun hone => by omega) (List.getElem_mem hj)
    rw [halen, halpha _ hd, hcode j (by rwa [encoded_codeLen_toNat]), readByte_encoded_code s hj]
    exact ⟨hd, rfl⟩
  have hfits : s.opa.toNat ≤ 2 ^ 64 - 1 := Nat.le_sub_one_of_lt s.opa.isLt
  rw [exec_decode_of_placesOf (hvalid.congr halen halpha) hlen.symm (by omega) (by omega) hplaces (by rwa [hvalue]),
    hvalue, BitVec.ofNat_toNat, BitVec.setWidth_eq]

/-! ### A leading A[0] (R184) -/

/-- The symbol A[0] in front adds nothing to the value. -/
theorem decodeSymbols_first_cons {s : State} (hvalid : ValidAlphabet s) (n : Nat) (cs : List Byte) :
    decodeSymbols (alphabet s) n 0 (readByte s 0x100 :: cs) = decodeSymbols (alphabet s) n 0 cs := by
  have hfirst : indexOf (readByte s 0x100) (alphabet s) = some 0 := indexOf_alphabet hvalid hvalid.one_le
  rw [decodeSymbols, hfirst]
  simp only [Nat.zero_mul, Nat.add_zero, if_neg (Nat.not_lt_zero _)]

/-- A DECODE that left no report got its result from the loop. -/
theorem decodeEnd_eq_succeeded {s : State} {r : Except Cause Nat} {v : DWord} (herr : s.status.err = false)
    (h : decodeEnd s r = .next (s.succeeded v 0)) : ∃ k, r = .ok k ∧ BitVec.ofNat 64 k = v := by
  cases r with
  | error c =>
    have hreport : true = s.status.err := congrArg (fun t => t.status.err) (Host.Outcome.next.inj h)
    rw [herr] at hreport
    cases hreport
  | ok k => exact ⟨k, rfl, congrArg State.res0 (Host.Outcome.next.inj h)⟩

/-- Settles O28: with A[0] in front the loop is after one pass where it was at the start. -/
theorem decodeAcceptsLeadingFirstSymbol : Obligations.DecodeAcceptsLeadingFirstSymbol := by
  unfold Obligations.DecodeAcceptsLeadingFirstSymbol
  intro s t v hvalid hpos hle hexec herr halen hlen halpha hfirst hcode
  have hvalid' : ValidAlphabet t := hvalid.congr halen halpha
  have hshift : shortCode t = readByte s 0x100 :: shortCode s := by
    have htail : readBytes t 0x201 s.codeLen.toNat = shortCode s := readBytes_congr hcode
    rw [shortCode, codeLength, hlen, ← htail, ← hfirst]
    rfl
  rw [exec_decode_of_valid hvalid hpos (by omega)] at hexec
  obtain ⟨k, hk, rfl⟩ := decodeEnd_eq_succeeded herr hexec
  rw [exec_decode_of_valid hvalid' (by omega) (by omega), hshift, alphabet_congr halen halpha, halen,
    decodeSymbols_first_cons hvalid, hk, decodeEnd_ok]

end Sys2Proof.Machine
end

section
/-! PROOFS. The life of a command: its issue (spec/60_exceptions.md R200), the step that runs what CMD decodes to
(R201), which causes each command can raise (R202, R203), the precise report (R204), and that a pending command completes
(R219; spec/70_reset_and_hazards.md R245). -/

namespace Sys2Proof.Machine

/-! ### The issue (R200, R240) -/

theorem unlessBusy_busy {s : State} (h : s.status.busy = true) (t : State) : unlessBusy s t = dropWrite s := by
  rw [unlessBusy, if_pos h]

/-- Settles O40: CMD is an input register, so its write is the issue while idle and is dropped while BUSY = 1. -/
theorem issueOnCommandWrite : Obligations.IssueOnCommandWrite := by
  unfold Obligations.IssueOnCommandWrite
  refine fun s w => ⟨fun hidle => ⟨issue w s, hostWrite_input hidle (r := .cmd) rfl, rfl, rfl⟩, fun hb => ?_⟩
  exact (hostWrite_reg .cmd w s).trans (congrArg _ (unlessBusy_busy hb _))

/-! ### The engine's turn (R201) -/

section Turn

variable {s : State}

theorem engineTurn_idle (h : s.status.busy = false) : engineTurn s = .next s := by
  simp [engineTurn, h]

theorem engineTurn_of_decode {i : Instr} (h : s.status.busy = true) (hd : decode s.cmd = .ok i) :
    engineTurn s = exec i s := by
  rw [engineTurn, if_pos h, completion, hd]

theorem engineTurn_of_illegal (h : s.status.busy = true) (hd : ∀ i, decode s.cmd ≠ .ok i) :
    engineTurn s = .next (s.failed .illegalCmd) := by
  obtain ⟨hidle, -⟩ | ⟨-, i, hi, -⟩ | ⟨-, hturn⟩ := engineTurn_cases s
  · simp [h] at hidle
  · exact absurd hi (hd i)
  · exact hturn

/-- The turn of a busy block ends the pending command. -/
theorem engineTurn_completes (h : s.status.busy = true) : ∃ t, engineTurn s = .next t ∧ CommandEffect s t := by
  obtain ⟨hidle, -⟩ | ⟨-, i, -, hturn⟩ | ⟨-, hturn⟩ := engineTurn_cases s
  · simp [h] at hidle
  · obtain ⟨t, hexec⟩ := exec_next i s
    exact ⟨t, hturn.trans hexec, exec_effect hexec⟩
  · exact ⟨_, hturn, .report _⟩

/-- The end of a command clears BUSY and sets DONE, with or without the report. -/
theorem CommandEffect.completes {t : State} (h : CommandEffect s t) :
    t.status.busy = false ∧ t.status.done = true := by
  obtain hst | ⟨c, hst⟩ := h.status_cases <;> simp [hst]

/-- The end of a command leaves the report and nothing else, or no new report. -/
theorem CommandEffect.failed_or_completed {t : State} (h : CommandEffect s t) :
    (∃ c, t = s.failed c) ∨ t.status = s.status.completed := by
  cases h with
  | report c => exact .inl ⟨c, rfl⟩
  | results | code => exact .inr (by simp [State.succeeded, Status.completed])

end Turn

/-- Settles O29: the turn of a busy block ends the command, and where ERR was 0 only a report sets it. -/
theorem completionPreciseAndTotal : Obligations.CompletionPreciseAndTotal := by
  unfold Obligations.CompletionPreciseAndTotal
  intro s hb herr
  obtain ⟨t, hturn, heffect⟩ := engineTurn_completes hb
  obtain ⟨hbusy, hdone⟩ := heffect.completes
  refine ⟨t, hturn, hbusy, hdone, ?_⟩
  obtain ⟨c, rfl⟩ | hst := heffect.failed_or_completed
  · exact ⟨fun _ => ⟨c, rfl⟩, fun h => nomatch h⟩
  · exact ⟨fun h => by simp [hst, herr] at h, fun _ => hst⟩

/-! ### The step (R201, R66) -/

section Step

variable {s : State} {es : List Event} (hrst : s.rstIn = false)
include hrst

theorem step_engine (he : s.events = .engine :: es) : step s = engineTurn { s with events := es } :=
  step_event hrst he

theorem step_quiet (he : s.events = []) : step s = engineTurn s := by
  simp [step, he, runQuiet, hrst]

end Step

/-- A word the host places is one issued on a block not in reset, with the engine's turn first in the order. -/
theorem withFetchWord_eq (s : State) {w : Nat} (hw : w < 2 ^ 32) :
    s.withFetchWord 32 w =
      { issue (BitVec.ofNat 32 w) s with rstIn := false, events := .engine :: s.events } := by
  rw [State.withFetchWord, Nat.mod_eq_of_lt hw]

/-- Settles O8: with the engine's turn first in the order, or nothing listed, the step is the engine's turn. -/
theorem stepRunsDecodedCommand : Obligations.StepRunsDecodedCommand := by
  unfold Obligations.StepRunsDecodedCommand
  refine ⟨fun s i es hrst hb hd he => ?engine, fun s i hrst hb hd he => ?quiet, fun s i w hw hd => ?placed,
    fun s es hrst hb hillegal => ⟨fun he => ?illegalEngine, fun he => ?illegalQuiet⟩,
    fun s es hrst hidle => ⟨fun he => ?idleEngine, fun he => ?idleQuiet⟩,
    fun s es hrst => ⟨step_event hrst, step_event hrst⟩⟩
  case engine => exact (step_engine hrst he).trans (engineTurn_of_decode (s := { s with events := es }) hb hd)
  case quiet => exact (step_quiet hrst he).trans (engineTurn_of_decode hb hd)
  case placed =>
    rw [withFetchWord_eq s hw]
    exact (step_engine rfl rfl).trans
      (engineTurn_of_decode (s := { issue (BitVec.ofNat 32 w) s with rstIn := false }) rfl hd)
  case illegalEngine =>
    exact (step_engine hrst he).trans (engineTurn_of_illegal (s := { s with events := es }) hb hillegal)
  case illegalQuiet => exact (step_quiet hrst he).trans (engineTurn_of_illegal hb hillegal)
  case idleEngine => exact (step_engine hrst he).trans (engineTurn_idle (s := { s with events := es }) hidle)
  case idleQuiet => exact (step_quiet hrst he).trans (engineTurn_idle hidle)

/-! ### The causes (R202, R203) -/

/-- Settles O46: the codes are those the definitions list. -/
theorem errorCodes : Obligations.ErrorCodes := by
  unfold Obligations.ErrorCodes
  decide

/-- The causes a command can raise, check by check in their order: the alphabet, the radix or the length of the code,
the loop of DECODE (R203, R205). -/
def raisableCauses : Instr → List Cause
  | .rotl32 _ | .rotl64 _ => [.rotRange]
  | .fmix32 | .fmix64 => []
  | .hash32 | .hash128 | .hash128s => [.bufRange]
  | .encode => [.alphaLen, .alphaDup] ++ [.radix1]
  | .decode => [.alphaLen, .alphaDup] ++ ([.codeLen] ++ [.codeSym, .decodeOvf])

/-- An ending of a command on `s`: it leaves ERR as it was, or it reports one of the causes `cs`. -/
inductive RaisesWithin (cs : List Cause) (s : State) : Result → Prop
  | completed (t : State) (herr : t.status.err = s.status.err) : RaisesWithin cs s (.next t)
  | reported (c : Cause) (hc : c ∈ cs) : RaisesWithin cs s (.next (s.failed c))

/-- An alphabet that is not valid has a bad length or a repeated symbol (R172). -/
theorem alphabetFault_of_not_valid {s : State} (h : ¬ValidAlphabet s) :
    ∃ c ∈ [Cause.alphaLen, .alphaDup], alphabetFault s = some c := by
  by_cases hlen : s.alen.toNat = 0 ∨ 256 < s.alen.toNat
  · exact ⟨_, by simp, alphabetFault_of_length hlen⟩
  · refine ⟨_, by simp, alphabetFault_of_repeated (by omega) (by omega) ?_⟩
    by_contra hrep
    exact h ⟨by omega, by omega, fun i j hij hj heq => hrep ⟨i, j, hij, hj, heq⟩⟩

/-- The loop of R180 raises CODE_SYM or DECODE_OVF only. -/
theorem decodeSymbols_error_mem {alpha : List Byte} {n v : Nat} {cs : List Byte} {c : Cause}
    (h : decodeSymbols alpha n v cs = .error c) : c ∈ [Cause.codeSym, .decodeOvf] := by
  induction cs generalizing v with
  | nil => cases h
  | cons b cs ih =>
    rw [decodeSymbols] at h
    split at h
    · simp [← Except.error.inj h]
    · split at h
      · simp [← Except.error.inj h]
      · exact ih h

theorem exec_hash_raisesWithin {i : Instr} (hi : i = .hash32 ∨ i = .hash128 ∨ i = .hash128s) (s : State) :
    RaisesWithin [.bufRange] s (exec i s) := by
  obtain ⟨hout, hin⟩ := hashRangeCheck i s hi
  by_cases hrange : s.offset.toNat + s.count.toNat ≤ s.nIn
  · obtain ⟨r0, r1, hexec⟩ := hin hrange
    rw [hexec]
    exact .completed _ rfl
  · rw [hout (Nat.not_le.1 hrange)]
    exact .reported _ (List.mem_singleton_self _)

theorem exec_encode_raisesWithin (s : State) : RaisesWithin (raisableCauses .encode) s (exec .encode s) := by
  by_cases hvalid : ValidAlphabet s
  · by_cases hradix : s.alen.toNat = 1 → s.opa = 0
    · rw [exec_encode_of_valid hvalid hradix]
      exact .completed _ (by simp [encoded])
    · obtain ⟨hone, hne⟩ := Classical.not_imp.1 hradix
      rw [exec_encode_of_radixOne hone hne]
      exact .reported _ (by simp [raisableCauses])
  · obtain ⟨c, hc, hfault⟩ := alphabetFault_of_not_valid hvalid
    rw [exec_encode_of_alphabetFault hfault]
    exact .reported c (List.mem_append_left _ hc)

theorem exec_decode_raisesWithin (s : State) : RaisesWithin (raisableCauses .decode) s (exec .decode s) := by
  by_cases hvalid : ValidAlphabet s
  · by_cases hlen : s.codeLen.toNat = 0 ∨ 64 < s.codeLen.toNat
    · rw [exec_decode_of_codeLen hvalid hlen]
      exact .reported _ (by simp [raisableCauses])
    · rw [exec_decode_of_valid hvalid (by omega) (by omega)]
      cases hloop : decodeSymbols (alphabet s) s.alen.toNat 0 (shortCode s) with
      | ok v => exact .completed _ rfl
      | error c => exact .reported c (List.mem_append_right _ (List.mem_append_right _ (decodeSymbols_error_mem hloop)))
  · obtain ⟨c, hc, hfault⟩ := alphabetFault_of_not_valid hvalid
    rw [exec_decode_of_alphabetFault hfault]
    exact .reported c (List.mem_append_left _ hc)

/-- Every command reports only causes R203 lists for it. -/
theorem exec_raisesWithin (i : Instr) (s : State) : RaisesWithin (raisableCauses i) s (exec i s) := by
  cases i with
  | rotl32 amt =>
    obtain hlt | hge := Nat.lt_or_ge amt 32
    · rw [exec_rotl32_of_lt hlt]
      exact .completed _ rfl
    · rw [exec_rotl32_of_ge hge]
      exact .reported _ (List.mem_singleton_self _)
  | rotl64 amt =>
    obtain hlt | hge := Nat.lt_or_ge amt 64
    · rw [exec_rotl64_of_lt hlt]
      exact .completed _ rfl
    · rw [exec_rotl64_of_ge hge]
      exact .reported _ (List.mem_singleton_self _)
  | fmix32 =>
    rw [exec_fmix32]
    exact .completed _ rfl
  | fmix64 =>
    rw [exec_fmix64]
    exact .completed _ rfl
  | hash32 | hash128 | hash128s => exact exec_hash_raisesWithin (by simp) s
  | encode => exact exec_encode_raisesWithin s
  | decode => exact exec_decode_raisesWithin s

/-- Where ERR was 0, a cause reported is one the command can raise. -/
theorem mem_raisableCauses_of_exec {i : Instr} {s t : State} {c : Cause} (hok : s.status.err = false)
    (hexec : exec i s = .next t) (herr : t.status.err = true) (hcause : t.status.errCause = some c) :
    c ∈ raisableCauses i := by
  have hends := exec_raisesWithin i s
  rw [hexec] at hends
  cases hends with
  | completed _ hkept => simp [hkept, hok] at herr
  | reported c' hc' => exact Option.some.inj hcause ▸ hc'

/-- Settles O30: the cause is in the command's list. -/
theorem causesByCommand : Obligations.CausesByCommand := by
  unfold Obligations.CausesByCommand
  intro i s t c hok hexec herr hcause
  have hc := mem_raisableCauses_of_exec hok hexec herr hcause
  cases i with
  | rotl32 | rotl64 | hash32 | hash128 | hash128s => exact List.mem_singleton.1 hc
  | fmix32 | fmix64 => exact absurd hc List.not_mem_nil
  | encode | decode => simpa [raisableCauses] using hc

/-! ### A pending command completes (R219, R245) -/

/-- A taken write leaves the reset input and the order as they are. -/
theorem WriteEffect.order_eq {off : BitVec 17} {v : Word} {s t : State} (h : WriteEffect off v s t) :
    t.rstIn = s.rstIn ∧ t.events = s.events := by
  cases h with
  | bytes hb a bs => exact ⟨writeBytes_rstIn s a bs, writeBytes_events s a bs⟩
  | ignored | softReset | enable | acknowledged | dropped | issued | operands => exact ⟨rfl, rfl⟩

/-- A plain event is taken, and leaves the reset input and the order as they are. -/
theorem runEvent_plain {e : Event} {s : State} (hrst : s.rstIn = false) (hplain : e.Plain s.nIn) (hne : e ≠ .engine) :
    ∃ t, runEvent e s = .next t ∧ t.rstIn = false ∧ t.events = s.events := by
  simp only [runEvent, hrst, Bool.false_eq_true, if_false]
  cases e with
  | engine => exact absurd rfl hne
  | resetOn => exact hplain.elim
  | delay => exact ⟨_, rfl, hrst, rfl⟩
  | resetOff => exact ⟨_, rfl, hrst, rfl⟩
  | read off n =>
    obtain ⟨d, hd⟩ := hostRead_taken s off n hplain
    exact ⟨_, hd s.events s.reads, hrst, rfl⟩
  | write off n v =>
    obtain ⟨htakes, -⟩ := hplain
    obtain ⟨⟨t, ht⟩, -⟩ := (busErrorsExactly (freshDraw s) off n v).1 htakes
    obtain ⟨hrst', hevents⟩ := (hostWrite_effect ht).order_eq
    exact ⟨t, ht, hrst'.trans hrst, hevents⟩

/-- A busy block takes one more event of a plain order and is then done or busy with the rest of it. -/
theorem step_pending {s : State} {e : Event} {es : List Event} (hb : s.status.busy = true) (hrst : s.rstIn = false)
    (he : s.events = e :: es) (hplain : e.Plain s.nIn) :
    ∃ t, step s = .next t
      ∧ ((t.status.busy = false ∧ t.status.done = true)
        ∨ (t.status.busy = true ∧ t.rstIn = false ∧ t.events = es ∧ t.nIn = s.nIn)) := by
  by_cases hengine : e = .engine
  · subst hengine
    obtain ⟨t, hturn, heffect⟩ := engineTurn_completes (s := { s with events := es }) hb
    exact ⟨t, (step_engine hrst he).trans hturn, .inl heffect.completes⟩
  · obtain ⟨t, hrun, hrst', hevents⟩ := runEvent_plain (s := { s with events := es }) hrst hplain hengine
    have hstep : step s = .next t := by
      simp only [step, he]
      exact hrun
    obtain ⟨hbusy, -, -⟩ := operandsHeldWhileBusy { s with events := es } t e hb hrst hplain hengine hrun
    exact ⟨t, hstep, .inr ⟨hbusy, hrst', hevents, step_nIn hstep⟩⟩

/-- By induction on what the order still lists. -/
theorem pending_run_completes (es : List Event) {s : State} (hb : s.status.busy = true) (hrst : s.rstIn = false)
    (he : s.events = es) (hplain : ∀ e ∈ es, e.Plain s.nIn) :
    ∃ k t, k ≤ es.length + 1 ∧ Sys2Proof.core.run k s = .next t
      ∧ t.status.busy = false ∧ t.status.done = true := by
  induction es generalizing s with
  | nil =>
    obtain ⟨t, hturn, heffect⟩ := engineTurn_completes hb
    exact ⟨1, t, le_rfl, core_run_succ 0 ((step_quiet hrst he).trans hturn), heffect.completes⟩
  | cons e es ih =>
    obtain ⟨hplain_e, hplain_es⟩ := List.forall_mem_cons.1 hplain
    obtain ⟨t, hstep, hdone | ⟨hbusy, hrst', hevents, hnIn⟩⟩ := step_pending hb hrst he hplain_e
    · exact ⟨1, t, by simp, core_run_succ 0 hstep, hdone⟩
    · obtain ⟨k, u, hk, hrun, hdone⟩ := ih hbusy hrst' hevents (hnIn ▸ hplain_es)
      exact ⟨k + 1, u, by simpa using hk, (core_run_succ k hstep).trans hrun, hdone⟩

/-- Settles O55, by induction on the order: each plain event leaves the command pending with a shorter order, the
engine's turn ends it, and with nothing listed the block ends it by itself. -/
theorem pendingCommandCompletes : Obligations.PendingCommandCompletes := by
  unfold Obligations.PendingCommandCompletes
  exact fun s hb hrst hplain => pending_run_completes s.events hb hrst rfl hplain

end Sys2Proof.Machine
end

section
/-! PROOFS. Reset and hazards: the soft reset (spec/70_reset_and_hazards.md R231), the reset input (R230; with
spec/60_exceptions.md R206), writes while BUSY = 1 (R240), and result reads while BUSY = 1 (R241). -/

namespace Sys2Proof.Machine

/-! ### Writes and reads of CTRL (R24, R231) -/

section Ctrl

variable {v : Word} {s : State}

theorem writeCtrl_srst (h : v.getLsbD 1 = true) : writeCtrl v s = resetBlock s := by
  rw [writeCtrl, if_pos h]

theorem writeCtrl_enable (h : v.getLsbD 1 = false) : writeCtrl v s = { s with ie := v.getLsbD 0 } := by
  rw [writeCtrl, h]
  rfl

/-- SRST reads 0 in every state (R24, R231). -/
theorem readReg_ctrl_srst (s : State) : (readReg .ctrl s).getLsbD 1 = false := by
  simp [readReg]

end Ctrl

/-- Settles O48: the write leaves the reset values, in which BUSY = 0 and CTRL holds 0; a CTRL read shows IE only. -/
theorem softReset : Obligations.SoftReset := by
  unfold Obligations.SoftReset
  refine ⟨fun s v hv => ?reset, fun s => ?srst⟩
  case reset =>
    have hwrite : hostWrite 0x004 .word v s = .next (resetBlock s) :=
      (hostWrite_reg .ctrl v s).trans (congrArg _ (writeCtrl_srst hv))
    exact ⟨resetBlock s, hwrite, resetBlock_atReset s, rfl, rfl, engineTurn_idle rfl,
      hostRead_reg_notResult .ctrl rfl (resetBlock s)⟩
  case srst => exact ⟨readReg .ctrl s, hostRead_reg_notResult .ctrl rfl s, readReg_ctrl_srst s⟩

/-! ### The reset input (R230, R206) -/

section ResetInput

variable {s : State} {es : List Event}

/-- While reset is asserted a step runs the event that stands first, as in reset. -/
theorem step_event_inReset {e : Event} (hrst : s.rstIn = true) (he : s.events = e :: es) :
    step s = eventInReset e { s with events := es } := by
  simp [step, he, runEvent, hrst]

theorem step_quiet_inReset (hrst : s.rstIn = true) (he : s.events = []) : step s = .next (resetBlock s) := by
  simp [step, he, runQuiet, hrst]

/-- The reset input is asserted, at whatever level it was. -/
theorem step_resetOn (he : s.events = .resetOn :: es) :
    step s = .next (resetBlock { s with events := es, rstIn := true }) := by
  cases hrst : s.rstIn with
  | false => exact step_event hrst he
  | true =>
    rw [step_event_inReset hrst he, ← hrst]
    rfl

/-- While reset is asserted, an engine turn, a delay and a quiet step are one more reset of the block. -/
theorem step_held_inReset (hrst : s.rstIn = true)
    (he : s.events = .engine :: es ∨ s.events = .delay :: es ∨ s.events = []) :
    ∃ rest, step s = .next (resetBlock { s with events := rest }) := by
  obtain he | he | he := he
  · exact ⟨es, step_event_inReset hrst he⟩
  · exact ⟨es, step_event_inReset hrst he⟩
  · exact ⟨s.events, step_quiet_inReset hrst he⟩

end ResetInput

/-- Settles O49, event by event: each step in reset is a reset of the block, a host access is refused, and after the
release the block is idle, so that it takes an issue. -/
theorem hardwareReset : Obligations.HardwareReset := by
  unfold Obligations.HardwareReset
  refine fun s es => ⟨fun he => ?asserted, fun hrst he => ?held,
    fun hrst off n v => ⟨step_event_inReset hrst, step_event_inReset hrst⟩, fun hrst he => ?released⟩
  case asserted => exact ⟨_, step_resetOn he, resetBlock_atReset _, rfl, rfl, rfl⟩
  case held =>
    obtain ⟨rest, hstep⟩ := step_held_inReset hrst he
    exact ⟨_, hstep, resetBlock_atReset _, hrst, rfl⟩
  case released =>
    refine ⟨_, step_event_inReset hrst he, resetBlock_atReset _, rfl, rfl, rfl, rfl, fun w => ?_⟩
    exact ⟨_, hostWrite_input rfl (r := .cmd) rfl, rfl, rfl⟩

/-! ### Taken accesses at a register's offset (R52) -/

section Target

variable {nIn off : Nat} {n : Width}

/-- The register region takes 32-bit accesses only (R52). -/
theorem PortTakes.eq_word (h : PortTakes nIn off n) (hoff : off < 0x100) : n = .word := by
  obtain ⟨-, hword, -⟩ | ⟨-, hbuf⟩ := h
  · exact hword
  · omega

/-- A taken access at a register's offset reaches that register. -/
theorem PortTakes.target_reg {r : Reg} (h : PortTakes nIn (BitVec.ofNat 17 r.offsetOf).toNat n) :
    portTarget nIn (BitVec.ofNat 17 r.offsetOf).toNat n = some (.reg r) := by
  have hoff : (BitVec.ofNat 17 r.offsetOf).toNat < 0x100 := by
    cases r <;> decide
  rw [h.eq_word hoff, portTarget_reg]

theorem PortTakes.hostWrite_reg {s : State} {r : Reg} (h : PortTakes s.nIn (BitVec.ofNat 17 r.offsetOf).toNat n)
    (v : Word) : hostWrite (BitVec.ofNat 17 r.offsetOf) n v s = .next (writeReg r v s) := by
  rw [hostWrite, h.target_reg]

/-- A taken access inside CODEBUF reaches CODEBUF (R37, R59). -/
theorem PortTakes.target_codebuf (h : PortTakes nIn off n) (hle : 0x200 ≤ off) (hlt : off < 0x240) :
    portTarget nIn off n = some (.buf .codebuf) := by
  obtain ⟨b, hb⟩ := h.target_buf (by omega)
  obtain ⟨-, -, hbase, hend⟩ := portTarget_buf hb
  cases b with
  | codebuf => exact hb
  | alpha =>
    have hpos := n.bytes_pos
    simp only [Buffer.base, Buffer.size, Config.alphaMax] at hend
    omega
  | inbuf =>
    simp only [Buffer.base] at hbase
    omega

end Target

/-! ### Writes while BUSY = 1 (R240) -/

/-- CMD and the input registers, whose writes R240 drops while BUSY = 1. -/
def Reg.inputs : List Reg := [.cmd, .seed, .offset, .count, .alen, .opaLo, .opaHi, .codeLen]

/-- The read-only registers, which ignore a write (R54). -/
def Reg.readOnly : List Reg :=
  [.id, .res0Lo, .res0Hi, .res1Lo, .res1Hi, .inbufSize, .digest0, .digest1, .digest2, .digest3]

theorem writeReg_input_busy {r : Reg} (hr : r ∈ Reg.inputs) (v : Word) {s : State} (hb : s.status.busy = true) :
    writeReg r v s = dropWrite s := by
  fin_cases hr <;> exact unlessBusy_busy hb _

theorem writeReg_readOnly {r : Reg} (hr : r ∈ Reg.readOnly) (v : Word) (s : State) : writeReg r v s = s := by
  fin_cases hr <;> rfl

/-- Settles O41: an input register and a buffer drop the write, a read-only register ignores it, and CTRL and STATUS
take it as they do while idle. -/
theorem writesWhileBusyDropped : Obligations.WritesWhileBusyDropped := by
  unfold Obligations.WritesWhileBusyDropped
  refine fun s off n v hb h => ⟨?dropped, fun hoff => ?ignored, ?enable, ?srst, ?status⟩
  case dropped =>
    rintro (hoff | hbuf)
    · obtain ⟨r, hr, rfl⟩ : ∃ r ∈ Reg.inputs, BitVec.ofNat 17 r.offsetOf = off := List.mem_map.1 hoff
      exact (h.hostWrite_reg v).trans (congrArg _ (writeReg_input_busy hr v hb))
    · obtain ⟨b, ht⟩ := h.target_buf hbuf
      rw [hostWrite, ht]
      exact congrArg _ (unlessBusy_busy hb _)
  case ignored =>
    obtain ⟨r, hr, rfl⟩ : ∃ r ∈ Reg.readOnly, BitVec.ofNat 17 r.offsetOf = off := List.mem_map.1 hoff
    exact (h.hostWrite_reg v).trans (congrArg _ (writeReg_readOnly hr v s))
  case enable =>
    rintro rfl hv
    exact (h.hostWrite_reg (r := .ctrl) v).trans (congrArg _ (writeCtrl_enable hv))
  case srst =>
    rintro rfl hv
    exact ⟨resetBlock s, (h.hostWrite_reg (r := .ctrl) v).trans (congrArg _ (writeCtrl_srst hv)),
      resetBlock_atReset s, rfl⟩
  case status =>
    rintro rfl
    refine (h.hostWrite_reg (r := .status) v).trans ?_
    simp only [writeReg, acknowledge, Status.acknowledged, hb]

/-! ### Result reads while BUSY = 1 (R241) -/

/-- The result registers, whose reads while BUSY = 1 are draws (R241). -/
def Reg.results : List Reg := [.res0Lo, .res0Hi, .res1Lo, .res1Hi, .codeLen, .digest0, .digest1, .digest2, .digest3]

theorem Reg.isResult_of_mem_results {r : Reg} (hr : r ∈ Reg.results) : (Target.reg r).isResult = true := by
  fin_cases hr <;> rfl

/-- A result offset reaches one result target, whatever N_IN is. -/
theorem result_target {off : BitVec 17} (n : Width)
    (hoff : off ∈ [(0x028 : BitVec 17), 0x02C, 0x030, 0x034, 0x038, 0x040, 0x044, 0x048, 0x04C]
      ∨ (0x200 ≤ off.toNat ∧ off.toNat < 0x240)) :
    ∃ tg : Target, tg.isResult = true ∧ ∀ nIn, PortTakes nIn off.toNat n → portTarget nIn off.toNat n = some tg := by
  obtain hreg | ⟨hle, hlt⟩ := hoff
  · obtain ⟨r, hr, rfl⟩ : ∃ r ∈ Reg.results, BitVec.ofNat 17 r.offsetOf = off := List.mem_map.1 hreg
    exact ⟨.reg r, Reg.isResult_of_mem_results hr, fun nIn h => h.target_reg⟩
  · exact ⟨.buf .codebuf, rfl, fun nIn h => h.target_codebuf hle hlt⟩

/-- A result read while BUSY = 1 returns the draw, cut to the bits of its target. -/
theorem hostRead_draw {s : State} {off : BitVec 17} {n : Width} {tg : Target}
    (ht : portTarget s.nIn off.toNat n = some tg) (hb : s.status.busy = true) (hres : tg.isResult = true) :
    hostRead off n s =
      .next (returnData off n (drawnValue n tg (Config.freeRead s.draws off.toNat n.bytes)) s) := by
  simp [hostRead, ht, hb, hres]

theorem drawnValue_lt (n : Width) (tg : Target) (d : Word) : (drawnValue n tg d).toNat < 2 ^ tg.bits n := by
  rw [drawnValue, BitVec.toNat_setWidth]
  exact (Nat.mod_le _ _).trans_lt (d.setWidth (tg.bits n)).isLt

/-- A target that is reached has no more bits than the access carries (R51, R52). -/
theorem portTarget_bits_le {nIn off : Nat} {n : Width} {tg : Target} (h : portTarget nIn off n = some tg) :
    tg.bits n ≤ 8 * n.bytes := by
  cases tg with
  | buf b => exact le_rfl
  | reg r =>
    have htakes := (portTarget_isSome_iff nIn off n).1 (Option.isSome_of_eq_some h)
    have hoff : off < 0x50 := portTarget_reg_offset h ▸ r.offsetOf_lt
    obtain rfl := htakes.eq_word (hoff.trans (by decide))
    cases r <;> decide

/-- Settles O43: both blocks reach the same target with the same draw, and a target shows its own bits only. -/
theorem busyResultReadsAreDraws : Obligations.BusyResultReadsAreDraws := by
  unfold Obligations.BusyResultReadsAreDraws
  intro off n s t hbs hbt hs ht hdraws hoff
  obtain ⟨tg, hres, htarget⟩ := result_target n hoff
  have hread_t := hostRead_draw (htarget _ ht) hbt hres
  rw [← hdraws] at hread_t
  have hlt := drawnValue_lt n tg (Config.freeRead s.draws off.toNat n.bytes)
  refine ⟨_, hostRead_draw (htarget _ hs) hbs hres, hread_t, ?codeLen, ?width⟩
  case codeLen =>
    rintro rfl
    obtain rfl : Target.reg .codeLen = tg := Option.some.inj (hs.target_reg.symm.trans (htarget _ hs))
    exact hlt
  case width =>
    exact hlt.trans_le (Nat.pow_le_pow_right (by decide) (portTarget_bits_le (htarget _ hs)))

end Sys2Proof.Machine
end
